-- ==== Sys2Proof/Word.lean ====
section
/-! DEFINITION. The word types of AQI-CORE (00_scope.md R7, R8). -/

namespace Sys2Proof

/-- One byte: a frame byte, or a byte of a word on a byte-wide link (R65). -/
abbrev Byte := BitVec 8

/-- A command word, CMD_WIDTH = 96 bits (R7, R80). -/
abbrev CmdWord := BitVec 96

/-- A response word, RSP_WIDTH = 160 bits (R7, R30). -/
abbrev RspWord := BitVec 160

/-- The payload of a format-F command, 80 bits (R80). -/
abbrev Payload := BitVec 80

/-- One frame: exactly FRAME_BYTES = 10 bytes, byte 0 first (R7, R60, R78). No other length can be
written, so the source's InvalidLength cannot arise (R205, U3; log 18). -/
abbrev Frame := Vector Byte 10

end Sys2Proof
end

