-- ==== Sys2Proof/Config.lean ====
section
/-! DEFINITION. What the spec leaves open and an implementation fixes: LATENCY (R7, R241) and the value
INFLIGHT holds while nothing may read it (R33). Both are opaque: nothing can be proved of their values. -/

namespace Sys2Proof

/-- LATENCY less one. OPEN (R7, U9): any natural number. -/
opaque Config.latencyPred : Nat

/-- LATENCY, the number of clock edges from ACCEPT to PRESENT: any integer at least 1 (R7, R241, U9; log 4). -/
def Config.latency : Nat := Config.latencyPred + 1

/-- The value of INFLIGHT when its content is unspecified (R33, U7), as a fresh free value for each draw (log 6). -/
opaque Config.unspecifiedInflight : Nat → RspWord

end Sys2Proof
end

