-- ==== Sys2Proof/Machine/Breakpoints.lean ====
section
/-! DEFINITION. The breakpoint table BPT (R36, R61, R140) and the AQI categories (R140, R146). -/

namespace Sys2Proof.Machine

/-- The seven categories of R140, in row order. -/
inductive Category where
  | offCharts
  | good
  | moderate
  | unhealthyForSensitiveGroups
  | unhealthy
  | veryUnhealthy
  | hazardous
  deriving DecidableEq, Repr

/-- The category code: the index of the category's row (R140, D9). -/
def Category.code : Category → BitVec 8
  | .offCharts => 0
  | .good => 1
  | .moderate => 2
  | .unhealthyForSensitiveGroups => 3
  | .unhealthy => 4
  | .veryUnhealthy => 5
  | .hazardous => 6

/-- One row of BPT: a ceiling in tenths of µg/m³, an AQI ceiling and a category (R36). The spec gives the row's
numbers no width: they are unbounded integers (R9; log 19). -/
structure BptRow where
  ceiling : Int
  aqi : Int
  category : Category
  deriving DecidableEq, Repr

/-- The contents of BPT, rows 0 to 6 in order (R140). -/
def bptRom : List BptRow :=
  [ ⟨0, 0, .offCharts⟩,
    ⟨120, 50, .good⟩,
    ⟨354, 100, .moderate⟩,
    ⟨554, 150, .unhealthyForSensitiveGroups⟩,
    ⟨1504, 200, .unhealthy⟩,
    ⟨2504, 300, .veryUnhealthy⟩,
    ⟨5004, 500, .hazardous⟩ ]

end Sys2Proof.Machine
end

