-- ==== Sys2Proof/Machine/State.lean ====
section
/-! DEFINITION. The state of AQI-CORE and its host (R20, R24), the reasons a step can stop, and the state
after reset (R232). Plain data throughout. -/

namespace Sys2Proof.Machine

/-- The input ports sampled at one rising edge (R21). The clock itself is the step. -/
structure Pins where
  rst : Bool
  cmdValid : Bool
  cmdWord : CmdWord
  rspReady : Bool
  deriving DecidableEq, Repr

/-- The statements a host executes (R95), and `drive`, the model's own, for the other waveforms that R42
allows a host (log 12). -/
inductive HostStmt where
  /-- Send: hold `cmd_valid` with the word until the ACCEPT edge (R95). -/
  | send (w : CmdWord)
  /-- RECV: wait for `rsp_valid`, record `rsp_word`, retire it (R95). -/
  | recv
  /-- RESET: hold `rst` high for one rising edge (R95, R230). -/
  | reset
  /-- Drive the given pins for one rising edge (R42): with no pin high, an idle edge between two statements (log 23). -/
  | drive (p : Pins)
  deriving DecidableEq, Repr

/-- One AQI-CORE instance and its host, between two rising edges. -/
structure State where
  /-- BUSY (R28). -/
  busy : Bool
  /-- RSP_VALID (R29). -/
  rspValid : Bool
  /-- RSP, the response register (R30). -/
  rsp : RspWord
  /-- INFLIGHT, hidden: the response of the command accepted and not yet presented (R33). -/
  inflight : RspWord
  /-- BPT, the breakpoint table (R36). -/
  bpt : List BptRow
  /-- The model's own: edges since the ACCEPT of the command in flight (R38, R241; log 4). -/
  elapsed : Nat
  /-- The model's own: how many free values have been drawn (log 6). -/
  draws : Nat
  /-- The host's statements not yet completed, the current one first (R95, R244). -/
  hostProgram : List HostStmt
  /-- The responses that RETIRE handed to the host, oldest first (R43, R244). -/
  responses : List RspWord
  deriving DecidableEq, Repr

/-- What the model flags as an error of the run. Neither is reachable from a state that meets the model's
invariant (Safety.lean). -/
inductive Fault where
  /-- Raised by PRESENT and RETIRE when the response's STATUS is a reserved code, 0x4..0xE (U3, U4; log 10).
  Safe: the spec asks for it, and the block never produces such a response (R201, R205). -/
  | reservedStatus (code : BitVec 4)
  /-- Raised by PRESENT and RETIRE when a reserved bit of the response, bit 7 or bits [15:12], is 1 (U5; log 10).
  Safe: the spec asks for it, and those bits are 0 in every response (R31). -/
  | reservedBits
  deriving DecidableEq, Repr

/-- Why an instruction has no meaning. Every instruction has one, so nothing raises it. -/
inductive Refusal where
  /-- Raised by no arm of `exec`. Safe: it would stop the run. -/
  | notModelled (mnemonic : String)
  deriving DecidableEq, Repr

/-- The state *after_reset* (R232, R233): IDLE, RSP all zero, BPT at its contents, and a host that has not
yet been given a program (R244; log 3). INFLIGHT is unspecified there (R232): the model names 0 (log 5). -/
def State.reset : State where
  busy := false
  rspValid := false
  rsp := 0
  inflight := 0
  bpt := bptRom
  elapsed := 0
  draws := 0
  hostProgram := []
  responses := []

end Sys2Proof.Machine
end

