-- ==== Sys2Proof/Machine/Response.lean ====
section
/-! DEFINITION. The response word: the STATUS codes (R201), the response value under construction and its
160-bit layout (R30, R91), the fields of a response word, and the check for values never produced (U3 to U5). -/

namespace Sys2Proof.Machine

/-- The named STATUS codes (R201). INVALID_LENGTH is reserved and never produced (R205). -/
inductive Status where
  | ok
  | invalidHeader
  | checksumMismatch
  | invalidTrailer
  | invalidLength
  | illegalCmd
  deriving DecidableEq, Repr

/-- The code of a status (R201). -/
def Status.code : Status → BitVec 4
  | .ok => 0x0
  | .invalidHeader => 0x1
  | .checksumMismatch => 0x2
  | .invalidTrailer => 0x3
  | .invalidLength => 0x4
  | .illegalCmd => 0xF

/-- The codes the block can produce (R201): 0 to 3 and 0xF. -/
def statusProduced (code : BitVec 4) : Bool :=
  code.toNat ≤ 3 || code == 0xF#4

/-- A response value (R30), field by field; the reserved bits are not fields, since they are always 0 (R31). -/
structure Response where
  status : Status
  failMask : BitVec 3
  op : BitVec 4
  category : Category
  commander : Byte
  pm25 : BitVec 32
  pm10 : BitVec 32
  sensorId : BitVec 16
  aqiInt : BitVec 16
  aqiRem : BitVec 16
  aqiDen : BitVec 16
  deriving DecidableEq, Repr

/-- Zero160 as a response value (R10): every pseudocode of a command starts from it. -/
def zeroResponse : Response where
  status := .ok
  failMask := 0
  op := 0
  category := .offCharts
  commander := 0
  pm25 := 0
  pm10 := 0
  sensorId := 0
  aqiInt := 0
  aqiRem := 0
  aqiDen := 0

/-- The layout of R30, bit 159 first. -/
def packResponse (r : Response) : RspWord :=
  r.aqiDen ++ r.aqiRem ++ r.aqiInt ++ r.sensorId ++ r.pm10 ++ r.pm25 ++ r.commander ++ r.category.code
    ++ 0#4 ++ r.op ++ 0#1 ++ r.failMask ++ r.status.code

/-- STATUS, bits [3:0] (R30). -/
def rspStatus (v : RspWord) : BitVec 4 := v.extractLsb' 0 4
/-- FAIL_MASK, bits [6:4]: bit 0 header, bit 1 checksum, bit 2 trailer (R30). -/
def rspFailMask (v : RspWord) : BitVec 3 := v.extractLsb' 4 3
/-- The reserved bit [7] (R30, R31). -/
def rspReserved7 (v : RspWord) : BitVec 1 := v.extractLsb' 7 1
/-- OP, bits [11:8] (R30). -/
def rspOp (v : RspWord) : BitVec 4 := v.extractLsb' 8 4
/-- The reserved bits [15:12] (R30, R31). -/
def rspReserved15 (v : RspWord) : BitVec 4 := v.extractLsb' 12 4
/-- CATEGORY, bits [23:16] (R30). -/
def rspCategory (v : RspWord) : BitVec 8 := v.extractLsb' 16 8
/-- COMMANDER, bits [31:24] (R30). -/
def rspCommander (v : RspWord) : Byte := v.extractLsb' 24 8
/-- PM25, bits [63:32] (R30). -/
def rspPm25 (v : RspWord) : BitVec 32 := v.extractLsb' 32 32
/-- PM10, bits [95:64] (R30). -/
def rspPm10 (v : RspWord) : BitVec 32 := v.extractLsb' 64 32
/-- SENSOR_ID, bits [111:96] (R30). -/
def rspSensorId (v : RspWord) : BitVec 16 := v.extractLsb' 96 16
/-- AQI_INT, bits [127:112] (R30). -/
def rspAqiInt (v : RspWord) : BitVec 16 := v.extractLsb' 112 16
/-- AQI_REM, bits [143:128] (R30). -/
def rspAqiRem (v : RspWord) : BitVec 16 := v.extractLsb' 128 16
/-- AQI_DEN, bits [159:144]; 0 means no AQI was computed (R30). -/
def rspAqiDen (v : RspWord) : BitVec 16 := v.extractLsb' 144 16

/-- The fault a response deserves, if it carries a STATUS or a reserved bit the block never produces: "A
response carrying one is `fault`" (U3, U4, U5). -/
def responseFault (v : RspWord) : Option Fault :=
  if statusProduced (rspStatus v) = false then some (.reservedStatus (rspStatus v))
  else if rspReserved7 v = 0 ∧ rspReserved15 v = 0 then none
  else some .reservedBits

end Sys2Proof.Machine
end

