-- ==== Sys2Proof/Machine/Interp.lean ====
section
/-! DEFINITION. Bracket selection and exact interpolation over BPT (R141 to R146). -/

namespace Sys2Proof.Machine

/-- The result of Interp: (AQI_INT, AQI_REM, AQI_DEN, CATEGORY) (R144). -/
structure AqiValue where
  int : Int
  rem : Int
  den : Int
  category : Category
  deriving DecidableEq, Repr

/-- sel(p): the least row index whose ceiling strictly exceeds p, if any (R142). -/
def selectRow (bpt : List BptRow) (p : Int) : Option Nat :=
  bpt.findIdx? fun row => p < row.ceiling

/-- The default result: AQI 0, AQI_DEN 1, OFF_CHARTS (R143). -/
def defaultAqi : AqiValue := ⟨0, 0, 1, .offCharts⟩

/-- The interpolation between row i-1 and row i (R144); the category is row i's (R146). -/
def interpBetween (prev row : BptRow) (p : Int) : AqiValue :=
  let n := (p - prev.ceiling) * (row.aqi - prev.aqi)
  let d := row.ceiling - prev.ceiling
  ⟨prev.aqi + n / d, n % d, d, row.category⟩

/-- Interp(p) (R144). Row 0 and no row give the default (R143). -/
def interp (bpt : List BptRow) (p : Int) : AqiValue :=
  match selectRow bpt p with
  | none => defaultAqi
  | some 0 => defaultAqi
  | some (k + 1) =>
    match bpt[k]?, bpt[k + 1]? with
    | some prev, some row => interpBetween prev row p
    | _, _ => defaultAqi

/-- Write the four AQI fields of a response, each truncated to its width (R10, R145, R149). -/
def withAqi (r : Response) (a : AqiValue) : Response :=
  { r with
    aqiInt := BitVec.ofInt 16 a.int
    aqiRem := BitVec.ofInt 16 a.rem
    aqiDen := BitVec.ofInt 16 a.den
    category := a.category }

end Sys2Proof.Machine
end

