-- ==== Sys2Proof/Machine/Operands.lean ====
section
/-! DEFINITION. The operand forms: reads of the frame byte space (R10, R60, R63 to R66) and the reading of a
CONVERT operand (R85). -/

namespace Sys2Proof.Machine

/-- MemRead(addr, n): the n-byte little-endian read of the frame (R10, R63, R64). It is defined for
`addr + n ≤ 10`, which its last argument demands. -/
def memRead (fb : Frame) (addr n : Nat) (h : addr + n ≤ 10) : Nat :=
  ((List.finRange n).map fun j => (fb[addr + j.val]'(by omega)).toNat * 256 ^ j.val).sum

/-- COMMANDER: frame byte 1, passed through unchanged (R114, R117). -/
def commanderByte (fb : Frame) : Byte := fb[1]

/-- PM25_RAW = MemRead(2, 2), tenths, unsigned (R115). -/
def pm25Raw (fb : Frame) : BitVec 16 := BitVec.ofNat 16 (memRead fb 2 2 (by omega))

/-- PM10_RAW = MemRead(4, 2), tenths, unsigned (R115). -/
def pm10Raw (fb : Frame) : BitVec 16 := BitVec.ofNat 16 (memRead fb 4 2 (by omega))

/-- SENSOR_ID = MemRead(6, 2) (R116). -/
def sensorIdField (fb : Frame) : BitVec 16 := BitVec.ofNat 16 (memRead fb 6 2 (by omega))

/-- p = sint(PM25_T), tenths (R9, R85). -/
def signedTenths (pm25 : BitVec 32) : Int := pm25.toInt

/-- uint(PM25) of a decoded reading, tenths (R180). -/
def unsignedTenths (pm25 : BitVec 32) : Int := pm25.toNat

end Sys2Proof.Machine
end

