-- ==== Sys2Proof/Machine/Ops.lean ====
section
/-! DEFINITION. The operations every step shares: the ports (R21 to R23), and ACCEPT, PRESENT, RETIRE and RESET
(R37, R38, R39, R230). The block takes no exceptions and returns from none (R200, R207, R208). -/

namespace Sys2Proof.Machine

/-- The outcome of one step of this machine. -/
abbrev Result := Host.Outcome State Fault Refusal

/-- Inputs of an edge at which the host drives nothing (R41). -/
def quietPins : Pins := ⟨false, false, 0, false⟩

/-- What a host statement drives (R95; log 14). -/
def stmtPins : HostStmt → Pins
  | .send w => ⟨false, true, w, false⟩
  | .recv => ⟨false, false, 0, true⟩
  | .reset => ⟨true, false, 0, false⟩
  | .drive p => p

/-- The input ports at the next rising edge (R21): the host's current statement drives them. -/
def inputPins (s : State) : Pins :=
  match s.hostProgram with
  | [] => quietPins
  | stmt :: _ => stmtPins stmt

/-- cmd_ready (R23). -/
def cmdReady (rst : Bool) (s : State) : Bool := !rst && !s.busy

/-- The output ports (R21, R23): what the host observes, and all of it (R43). -/
structure Outputs where
  cmdReady : Bool
  rspValid : Bool
  rspWord : RspWord
  deriving DecidableEq, Repr

/-- The outputs as functions of the state and `rst` (R23). -/
def outputPins (rst : Bool) (s : State) : Outputs :=
  ⟨cmdReady rst s, s.rspValid, s.rsp⟩

/-- A command handshake, which is an ACCEPT (R22, R37). -/
def acceptEnabled (p : Pins) (s : State) : Bool := cmdReady p.rst s && p.cmdValid

/-- A response handshake, which is a RETIRE (R22, R39). -/
def retireEnabled (p : Pins) (s : State) : Bool := !p.rst && s.rspValid && p.rspReady

/-- The block is COMPUTING (R38, R40), so PRESENT is enabled at its edge. -/
def computing (s : State) : Bool := s.busy && !s.rspValid

/-- Whether a host statement completes at this edge (R95). -/
def stmtDone (stmt : HostStmt) (s : State) : Bool :=
  match stmt with
  | .send w => acceptEnabled (stmtPins (.send w)) s
  | .recv => retireEnabled (stmtPins .recv) s
  | .reset => true
  | .drive _ => true

/-- The host's statements after this edge (R95). DESIGN CHOICE (log 23): when a statement completes, the next one starts at
the very next edge, with no idle edge between; the spec does not say how many edges lie between two statements. -/
def hostAfter (s : State) : List HostStmt :=
  match s.hostProgram with
  | [] => []
  | stmt :: rest => if stmtDone stmt s then rest else stmt :: rest

/-- The host moves on at this edge. -/
def advanceHost (s : State) : State := { s with hostProgram := hostAfter s }

/-- INFLIGHT's content becomes unspecified: a fresh free value (R33, U7; log 6). -/
def forgetInflight (s : State) : State :=
  { s with inflight := Config.unspecifiedInflight s.draws, draws := s.draws + 1 }

/-- ACCEPT of a command whose response is `v` (R37): INFLIGHT <- v, BUSY <- 1, RSP and RSP_VALID unchanged.
While BUSY is 1 the command waits, neither lost nor queued (R236; log 9). -/
def accept (v : RspWord) (s : State) : Result :=
  if s.busy then .next s
  else .next { s with inflight := v, busy := true, elapsed := 0 }

/-- PRESENT (R38): RSP <- INFLIGHT, RSP_VALID <- 1. A response never produced is a fault (U3 to U5). -/
def present (s : State) : Result :=
  match responseFault s.inflight with
  | some f => .fault f
  | none => .next (forgetInflight { s with rsp := s.inflight, rspValid := true })

/-- An edge in COMPUTING: PRESENT at the edge LATENCY after ACCEPT, and until then one more edge has gone by
(R38, R241). -/
def compute (latency : Nat) (s : State) : Result :=
  if latency ≤ s.elapsed + 1 then present s
  else .next { s with elapsed := s.elapsed + 1 }

/-- RETIRE (R39): RSP_VALID <- 0, BUSY <- 0, RSP unchanged; the host records the response (R43, R95). -/
def retire (s : State) : Result :=
  match responseFault s.rsp with
  | some f => .fault f
  | none => .next { s with rspValid := false, busy := false, responses := s.responses ++ [s.rsp] }

/-- RESET (R230): BUSY, RSP_VALID and RSP cleared, INFLIGHT discarded, BPT unchanged. The host's own records
are no part of the block (log 15). -/
def resetBlock (s : State) : State :=
  { forgetInflight s with busy := false, rspValid := false, rsp := 0, elapsed := 0 }

end Sys2Proof.Machine
end

