-- ==== Sys2Proof/Machine/AqiConverter.lean ====
section
/-! DEFINITION. The AqiConverter unit and CONVERT (R140 to R156). -/

namespace Sys2Proof.Machine

/-- ConvertOp (R149): STATUS OK always (R148), both operands echoed (R147). -/
def convertOp (bpt : List BptRow) (pm25 pm10 : BitVec 32) : Response :=
  withAqi { zeroResponse with op := 0x2, status := .ok, pm25 := pm25, pm10 := pm10 }
    (interp bpt (signedTenths pm25))

/-- CONVERT (R149). -/
def execConvert (pm25 pm10 : BitVec 32) (s : State) : Result :=
  accept (packResponse (convertOp s.bpt pm25 pm10)) s

end Sys2Proof.Machine
end

