-- ==== Sys2Proof/Machine/Flags.lean ====
section
/-! DEFINITION. The flag computations: the three frame checks (R110 to R113), FAIL_MASK (R119) and STATUS
(R120, R202). These are the block's only flags (R35). -/

namespace Sys2Proof.Machine

/-- HEADER (R7). -/
def headerByte : Byte := 0xAA

/-- TRAILER (R7). -/
def trailerByte : Byte := 0xAB

/-- hdr_ok (R110). -/
def headerOk (fb : Frame) : Bool := fb[0] == headerByte

/-- The frame bytes the checksum sums, bytes 2 to 7 (R111). -/
def checksumData (fb : Frame) : List Byte := [fb[2], fb[3], fb[4], fb[5], fb[6], fb[7]]

/-- cs: the 8-bit sum, wrapped at each step (R111). -/
def checksum (fb : Frame) : Byte :=
  (checksumData fb).foldl (fun cs b => BitVec.ofNat 8 (cs.toNat + b.toNat)) 0

/-- cs_ok (R111). -/
def checksumOk (fb : Frame) : Bool := checksum fb == fb[8]

/-- tr_ok (R113). -/
def trailerOk (fb : Frame) : Bool := fb[9] == trailerByte

/-- frame_ok: all three checks pass (R118). -/
def frameOk (fb : Frame) : Bool := headerOk fb && checksumOk fb && trailerOk fb

/-- FAIL_MASK of the three outcomes: bit 2 trailer, bit 1 checksum, bit 0 header (R119). -/
def failMask (hdrOk csOk trOk : Bool) : BitVec 3 :=
  BitVec.ofBool (!trOk) ++ BitVec.ofBool (!csOk) ++ BitVec.ofBool (!hdrOk)

/-- FrameStatus: header first, then checksum, then trailer (R202). -/
def frameStatus (hdrOk csOk trOk : Bool) : Status :=
  if !hdrOk then .invalidHeader
  else if !csOk then .checksumMismatch
  else if !trOk then .invalidTrailer
  else .ok

end Sys2Proof.Machine
end

