-- ==== Sys2Proof/Machine/FrameDecoder.lean ====
section
/-! DEFINITION. The FrameDecoder unit and DECODE (R110 to R127). -/

namespace Sys2Proof.Machine

/-- The flags of a decoded frame (R119, R120); OP is the command's. -/
def classifyFrame (op : BitVec 4) (fb : Frame) : Response :=
  { zeroResponse with
    op := op
    failMask := failMask (headerOk fb) (checksumOk fb) (trailerOk fb)
    status := frameStatus (headerOk fb) (checksumOk fb) (trailerOk fb) }

/-- The reading of a valid frame (R114 to R116); the PM fields are zero-extended to 32 bits (R115). -/
def withReading (r : Response) (fb : Frame) : Response :=
  { r with
    commander := commanderByte fb
    pm25 := (pm25Raw fb).zeroExtend 32
    pm10 := (pm10Raw fb).zeroExtend 32
    sensorId := sensorIdField fb }

/-- DecodeOp (R123): only a frame that passes all three checks has a reading (R118, R121). -/
def decodeOp (fb : Frame) : Response :=
  if frameOk fb then withReading (classifyFrame 0x1 fb) fb else classifyFrame 0x1 fb

/-- DECODE (R123). -/
def execDecode (fb : Frame) (s : State) : Result :=
  accept (packResponse (decodeOp fb)) s

end Sys2Proof.Machine
end

