-- ==== Sys2Proof/Machine/FusedCommand.lean ====
section
/-! DEFINITION. DECODE_CONVERT (R180 to R182). -/

namespace Sys2Proof.Machine

/-- DecodeConvertOp (R180): the DECODE response with OP 3, and the AQI of its PM25 when the frame is valid. -/
def decodeConvertOp (bpt : List BptRow) (fb : Frame) : Response :=
  let r := { decodeOp fb with op := 0x3 }
  if r.status = .ok then withAqi r (interp bpt (unsignedTenths r.pm25)) else r

/-- DECODE_CONVERT (R180). -/
def execDecodeConvert (fb : Frame) (s : State) : Result :=
  accept (packResponse (decodeConvertOp s.bpt fb)) s

end Sys2Proof.Machine
end

