-- ==== Sys2Proof/Syntax.lean ====
section
/-! DEFINITION. The commands of AQI-CORE command set version 1 (R2, R83, R94): one constructor per row of
spec/opcode_table.json. Illegal words (R88) are no commands: `decode` rejects them by name. -/

namespace Sys2Proof

/-- A legal command with its operands (R83). -/
inductive Instr where
  /-- DECODE: validate one frame and extract its reading (R123). -/
  | decode (fb : Frame)
  /-- CONVERT: the AQI of a PM2.5 value; operands PM25_T and PM10_T (R85, R149). -/
  | convert (pm25 : BitVec 32) (pm10 : BitVec 32)
  /-- DECODE_CONVERT: DECODE, then CONVERT of a valid frame's PM2.5 (R180). -/
  | decodeConvert (fb : Frame)
  deriving DecidableEq, Repr

end Sys2Proof
end

