-- ==== Sys2Proof/Machine/Dispatch.lean ====
section
/-! DEFINITION. The dispatch of R90: one arm per command. -/

namespace Sys2Proof.Machine

/-- The ACCEPT edge of a legal command (R37, R90). -/
def exec (i : Instr) (s : State) : Host.Outcome State Fault Refusal :=
  match i with
  | .decode fb => Sys2Proof.Machine.execDecode fb s
  | .convert pm25 pm10 => Sys2Proof.Machine.execConvert pm25 pm10 s
  | .decodeConvert fb => Sys2Proof.Machine.execDecodeConvert fb s

end Sys2Proof.Machine
end

