-- ==== Sys2Proof/WellFormed.lean ====
section
/-! DEFINITION. Well-formedness of a command word: `legal`, the three conditions of R87. A term of `Instr` needs
no check of its own: its frame has exactly ten bytes and its operands exactly 32 bits by their types (U3, R205;
log 18). The operand checks of the assembler (R96) are in Machine/Assembler.lean. -/

namespace Sys2Proof

/-- The OP field names one of the three commands (R87, first conjunct). -/
def legalOp (w : CmdWord) : Bool :=
  w.extractLsb' 0 4 == 1#4 || w.extractLsb' 0 4 == 2#4 || w.extractLsb' 0 4 == 3#4

/-- RSVD_A is zero (R87, second conjunct). -/
def legalReservedA (w : CmdWord) : Bool :=
  w.extractLsb' 4 12 == 0#12

/-- RSVD_B is zero in a CONVERT (R87, third conjunct). -/
def legalReservedB (w : CmdWord) : Bool :=
  w.extractLsb' 0 4 != 2#4 || w.extractLsb' 80 16 == 0#16

/-- Legal(w) of R87. -/
def legal (w : CmdWord) : Bool :=
  legalOp w && legalReservedA w && legalReservedB w

end Sys2Proof
end

