-- ==== Sys2Proof/Decode.lean ====
section
/-! DEFINITION. Decoding of command words (R80 to R88), total on words and on bytes, rejecting by name; and the
encoder, from the same encoding tables (R81, R83 to R85). -/

namespace Sys2Proof

/-- Why a word or a byte string is no command. -/
inductive DecodeReject where
  /-- OP is 0x0 or 0x4..0xF (R88). -/
  | illegalOp (op : BitVec 4)
  /-- A legal OP with RSVD_A nonzero (R88). -/
  | reservedA
  /-- CONVERT with RSVD_B nonzero (R88). -/
  | reservedB
  /-- Fewer than the twelve bytes of a command word were given (R80). -/
  | tooFewBytes
  deriving DecidableEq, Repr

/-- The OP field, bits [3:0] (R80, R82). -/
def opField (w : CmdWord) : BitVec 4 := w.extractLsb' 0 4

/-- The RSVD_A field, bits [15:4] (R80). -/
def rsvdA (w : CmdWord) : BitVec 12 := w.extractLsb' 4 12

/-- The RSVD_B field of format V, bits [95:80] (R81). -/
def rsvdB (w : CmdWord) : BitVec 16 := w.extractLsb' 80 16

/-- The PAYLOAD field, bits [95:16] (R80). -/
def payloadField (w : CmdWord) : Payload := w.extractLsb' 16 80

/-- Operand assembly of format F: FB[k] = payload[8k+7 : 8k] (R84, R123). -/
def frameOfPayload (p : Payload) : Frame :=
  Vector.ofFn fun k => p.extractLsb' (8 * k.val) 8

/-- The frame a format-F word carries (R84). -/
def frameField (w : CmdWord) : Frame := frameOfPayload (payloadField w)

/-- PM25_T of format V, bits [47:16] (R85). -/
def pm25Field (w : CmdWord) : BitVec 32 := w.extractLsb' 16 32

/-- PM10_T of format V, bits [79:48] (R85). -/
def pm10Field (w : CmdWord) : BitVec 32 := w.extractLsb' 48 32

/-- The decoder of R83, on a whole command word: the command comes from OP alone, and the reserved fields
must be zero (R87, R88, R92). -/
def decode (w : CmdWord) : Except DecodeReject Instr :=
  if opField w = 0x1#4 then
    if rsvdA w = 0 then .ok (.decode (frameField w)) else .error .reservedA
  else if opField w = 0x2#4 then
    if rsvdA w = 0 then
      if rsvdB w = 0 then .ok (.convert (pm25Field w) (pm10Field w)) else .error .reservedB
    else .error .reservedA
  else if opField w = 0x3#4 then
    if rsvdA w = 0 then .ok (.decodeConvert (frameField w)) else .error .reservedA
  else .error (.illegalOp (opField w))

/-- The bytes of a word, byte j = bits [8j+7 : 8j], byte 0 first (R65). `n` bytes are given. -/
def bytesOfWord {width : Nat} (n : Nat) (w : BitVec width) : List Byte :=
  (List.range n).map fun j => w.extractLsb' (8 * j) 8

/-- The little-endian value of a byte string: the byte at the lower offset is less significant (R64, R65). -/
def leValue : List Byte → Nat
  | [] => 0
  | b :: bs => b.toNat + 256 * leValue bs

/-- A command word is twelve bytes (R80); the decoder reads them from the front and hands back the rest. -/
def decodeBytes (bs : List Byte) : Except DecodeReject (Instr × List Byte) :=
  if bs.length < 12 then .error .tooFewBytes
  else (decode (BitVec.ofNat 96 (leValue (bs.take 12)))).map fun i => (i, bs.drop 12)

/-- The words of a link of `lanes` bytes, word 0 first, each of them `lanes` bytes in stream order (R65: a
byte-wide or a 32-bit-wide link). -/
def linkWords {width : Nat} (lanes count : Nat) (w : BitVec width) : List (BitVec (8 * lanes)) :=
  (List.range count).map fun j => w.extractLsb' (8 * lanes * j) (8 * lanes)

/-- Frame byte k at payload bits [8k+7 : 8k] (R81, R84), the most significant byte written first. -/
def payloadOfFrame (fb : Frame) : Payload :=
  fb[9] ++ fb[8] ++ fb[7] ++ fb[6] ++ fb[5] ++ fb[4] ++ fb[3] ++ fb[2] ++ fb[1] ++ fb[0]

/-- A format-F word: PAYLOAD, RSVD_A = 0, OP (R81). -/
def encodeF (op : BitVec 4) (fb : Frame) : CmdWord :=
  payloadOfFrame fb ++ 0#12 ++ op

/-- A format-V word: RSVD_B = 0, PM10_T, PM25_T, RSVD_A = 0, OP (R81). -/
def encodeV (op : BitVec 4) (pm25 pm10 : BitVec 32) : CmdWord :=
  0#16 ++ pm10 ++ pm25 ++ 0#12 ++ op

/-- The command word of a command (R81, R83). -/
def encode : Instr → CmdWord
  | .decode fb => encodeF 0x1#4 fb
  | .convert pm25 pm10 => encodeV 0x2#4 pm25 pm10
  | .decodeConvert fb => encodeF 0x3#4 fb

/-- The command the decoder reads from a word whose low `nbits` bits are `w` and whose other bits are zero,
laid out as bytes, byte 0 first (R65). -/
def decodeTableWord (nbits w : Nat) : Option Instr :=
  match decodeBytes (bytesOfWord 12 (BitVec.ofNat 96 (w % 2 ^ nbits))) with
  | .ok (i, _) => some i
  | .error _ => none

end Sys2Proof
end

