-- ==== Sys2Proof/Machine/Respond.lean ====
section
/-! DEFINITION. The response to an illegal word (R89), and Exec, the block's whole function from a command word
to a response (R90). -/

namespace Sys2Proof.Machine

/-- IllegalRsp(w): STATUS ILLEGAL_CMD, OP as given, all else 0 (R89). -/
def illegalResponse (w : CmdWord) : Response :=
  { zeroResponse with status := .illegalCmd, op := opField w }

/-- The response of a legal command (R90). -/
def commandResponse (bpt : List BptRow) (i : Instr) : Response :=
  match i with
  | .decode fb => decodeOp fb
  | .convert pm25 pm10 => convertOp bpt pm25 pm10
  | .decodeConvert fb => decodeConvertOp bpt fb

/-- Exec(w) (R90): total, and a function of the word and the constant BPT alone (R44). -/
def execWord (bpt : List BptRow) (w : CmdWord) : RspWord :=
  match decode w with
  | .ok i => packResponse (commandResponse bpt i)
  | .error _ => packResponse (illegalResponse w)

/-- An illegal command goes through the ordinary transaction (R89). -/
def acceptIllegal (w : CmdWord) (s : State) : Result :=
  accept (packResponse (illegalResponse w)) s

/-- Whether a response word is one the block can present: Exec of some command word (R44, R73). -/
def IsResponse (bpt : List BptRow) (v : RspWord) : Prop := ∃ w : CmdWord, v = execWord bpt w

end Sys2Proof.Machine
end

