-- ==== Sys2Proof/Machine/Edge.lean ====
section
/-! DEFINITION. One rising edge of the clock: which of RESET, ACCEPT, RETIRE and PRESENT happens (R22, R37 to
R41, R230, R231), for a LATENCY given as an argument (R7). -/

namespace Sys2Proof.Machine

/-- ACCEPT of the word on `cmd_word` (R37, R90): a legal command is dispatched, an illegal one is answered. -/
def acceptWord (w : CmdWord) (s : State) : Result :=
  match decode w with
  | .ok i => exec i s
  | .error _ => acceptIllegal w s

/-- The block's part of an edge with inputs `p`. RESET takes precedence over every other step (R231). At most
one of ACCEPT and RETIRE happens (R39; log 8). With none enabled the state holds (R41). -/
def blockEdge (latency : Nat) (p : Pins) (s : State) : Result :=
  if p.rst then .next (resetBlock s)
  else if acceptEnabled p s then acceptWord p.cmdWord s
  else if retireEnabled p s then retire s
  else if computing s then compute latency s
  else .next s

/-- One rising edge of the block and its host. Both see the state before the edge. -/
def edge (latency : Nat) (s : State) : Result :=
  blockEdge latency (inputPins s) (advanceHost s)

/-- A state in which the host is about to send the word and the block is IDLE, so that the next edge is its
ACCEPT (R37, R95; log 3). -/
def offerWord (w : CmdWord) (s : State) : State :=
  { s with busy := false, rspValid := false, hostProgram := .send w :: s.hostProgram }

end Sys2Proof.Machine
end

