-- ==== Sys2Proof/Machine/Step.lean ====
section
/-! DEFINITION. The step: one rising edge, with the implementation's LATENCY. -/

namespace Sys2Proof.Machine

/-- One step of the machine: one rising edge of `clk` (R21). -/
def step (s : State) : Host.Outcome State Fault Refusal := edge Config.latency s

/-- The state in which the next step takes the command word whose low `nbits` bits are `w`: the host offers it
and the block is IDLE (R37, R65; log 3). -/
def State.withFetchWord (s : State) (nbits w : Nat) : State :=
  offerWord (BitVec.ofNat 96 (w % 2 ^ nbits)) s

end Sys2Proof.Machine
end

