-- ==== Sys2Proof/Machine/Assembler.lean ====
section
/-! DEFINITION. The assembler of a host program (R95 to R99): statements, their operand checks (R96), the
pseudo-instructions, and the reading of text (log 16). An accepted program is a list of host statements. -/

namespace Sys2Proof.Machine

/-- Why the assembler refuses a line (R96, R97). -/
inductive AsmError where
  /-- A frame with other than 10 bytes (R96). -/
  | frameLength
  /-- A frame byte with other than two hex digits (R96). -/
  | byteDigits
  /-- A numeric operand outside its range (R96, R98). -/
  | operandRange
  /-- A `.cmd` word with other than 24 hex digits after `0x` (R96). -/
  | cmdDigits
  /-- A second fractional digit in CONVERT.UG (R97). -/
  | fractionDigits
  /-- An operand that is no number of the form its statement takes (R96 to R98). -/
  | badNumber
  /-- Operands missing, left over or not separated as the statement's syntax has them (R95 to R98). -/
  | badOperands
  /-- A line that begins with none of the statements of R95 to R99. -/
  | unknownStatement
  deriving DecidableEq, Repr

/-- A decimal in µg/m³: sign, whole part and the digits after the point (R97). -/
structure Decimal where
  negative : Bool
  whole : Nat
  fraction : List (Fin 10)
  deriving DecidableEq, Repr

/-- The statements that send a command (R95, R97, R98), with their operands as written. -/
inductive SendStmt where
  | decode (bytes : List Byte)
  | decodeConvert (bytes : List Byte)
  | convert (p25 p10 : Int)
  | cmd (digits : List (BitVec 4))
  | convertUg (x y : Decimal)
  | decodeMk (p25 p10 id : Nat) (commander : Option Byte)
  | decodeConvertMk (p25 p10 id : Nat) (commander : Option Byte)
  deriving DecidableEq, Repr

/-- The statements of a host program (R95, R99). -/
inductive AsmStmt where
  | send (x : SendStmt)
  | call (x : SendStmt)
  | recv
  | reset
  deriving DecidableEq, Repr

/-- A frame is written with exactly ten bytes (R96). -/
def asmFrame : List Byte → Except AsmError Frame
  | [b0, b1, b2, b3, b4, b5, b6, b7, b8, b9] => .ok #v[b0, b1, b2, b3, b4, b5, b6, b7, b8, b9]
  | _ => .error .frameLength

/-- A CONVERT operand lies in [-2^31, 2^31 - 1] (R96). -/
def asmTenths (x : Int) : Except AsmError (BitVec 32) :=
  if -2 ^ 31 ≤ x ∧ x ≤ 2 ^ 31 - 1 then .ok (BitVec.ofInt 32 x) else .error .operandRange

/-- A DECODE.MK operand lies in [0, 65535] (R98). -/
def asmHalf (x : Nat) : Except AsmError (BitVec 16) :=
  if x ≤ 65535 then .ok (BitVec.ofNat 16 x) else .error .operandRange

/-- X = 10 * x, exactly; a second fractional digit is refused (R97). -/
def asmDecimal (d : Decimal) : Except AsmError Int :=
  let signed (n : Nat) : Int := if d.negative then -(n : Int) else n
  match d.fraction with
  | [] => .ok (signed (10 * d.whole))
  | [t] => .ok (signed (10 * d.whole + t.val))
  | _ => .error .fractionDigits

/-- The low byte of a 16-bit value, v mod 256 (R98). -/
def loByte (v : BitVec 16) : Byte := v.extractLsb' 0 8

/-- The high byte of a 16-bit value, v div 256 (R98). -/
def hiByte (v : BitVec 16) : Byte := v.extractLsb' 8 8

/-- The default commander byte of DECODE.MK (R98, D26). -/
def defaultCommander : Byte := 0xC0

/-- The frame that DECODE.MK builds: the source's encoder of a reading (R98, R126). -/
def mkFrame (p25 p10 id : BitVec 16) (c : Byte) : Frame :=
  #v[0xAA, c, loByte p25, hiByte p25, loByte p10, hiByte p10, loByte id, hiByte id,
    loByte p25 + hiByte p25 + loByte p10 + hiByte p10 + loByte id + hiByte id, 0xAB]

/-- The frame of a DECODE.MK's operands (R98). -/
def asmMkFrame (p25 p10 id : Nat) (c : Option Byte) : Except AsmError Frame :=
  match asmHalf p25, asmHalf p10, asmHalf id with
  | .ok a, .ok b, .ok i => .ok (mkFrame a b i (c.getD defaultCommander))
  | _, _, _ => .error .operandRange

/-- The word of a CONVERT (R95, R96). -/
def asmConvert (p25 p10 : Int) : Except AsmError CmdWord :=
  match asmTenths p25, asmTenths p10 with
  | .ok a, .ok b => .ok (encode (.convert a b))
  | _, _ => .error .operandRange

/-- The word of `.cmd`, bit 95 first (R95). -/
def asmRaw (digits : List (BitVec 4)) : Except AsmError CmdWord :=
  if digits.length = 24 then .ok (BitVec.ofNat 96 (digits.foldl (fun n d => 16 * n + d.toNat) 0))
  else .error .cmdDigits

/-- The command word a send statement sends (R95 to R98), or why it is refused. -/
def sendWord : SendStmt → Except AsmError CmdWord
  | .decode bs => (asmFrame bs).map fun fb => encode (.decode fb)
  | .decodeConvert bs => (asmFrame bs).map fun fb => encode (.decodeConvert fb)
  | .convert p25 p10 => asmConvert p25 p10
  | .cmd digits => asmRaw digits
  | .convertUg x y =>
    match asmDecimal x, asmDecimal y with
    | .ok a, .ok b => asmConvert a b
    | .error e, _ => .error e
    | _, .error e => .error e
  | .decodeMk p25 p10 id c => (asmMkFrame p25 p10 id c).map fun fb => encode (.decode fb)
  | .decodeConvertMk p25 p10 id c => (asmMkFrame p25 p10 id c).map fun fb => encode (.decodeConvert fb)

/-- The host statements a program statement stands for; CALL is the send, then RECV (R95, R99). -/
def asmStmt : AsmStmt → Except AsmError (List HostStmt)
  | .send x => (sendWord x).map fun w => [.send w]
  | .call x => (sendWord x).map fun w => [.send w, .recv]
  | .recv => .ok [.recv]
  | .reset => .ok [.reset]

/-! ### Text -/

/-- A blank between operands (log 16). -/
def isBlank (c : Char) : Bool := c == ' ' || c == '\t' || c == '\r'

/-- The words of a line, split at blanks, each comma a word of its own; `word` is the one being read. -/
def splitWords (word : List Char) : List Char → List (List Char)
  | [] => if word.isEmpty then [] else [word.reverse]
  | c :: cs =>
    if isBlank c then (if word.isEmpty then [] else [word.reverse]) ++ splitWords [] cs
    else if c == ',' then (if word.isEmpty then [] else [word.reverse]) ++ [','] :: splitWords [] cs
    else splitWords (c :: word) cs

/-- The lines of a text. -/
def splitLines (line : List Char) : List Char → List (List Char)
  | [] => [line.reverse]
  | c :: cs => if c == '\n' then line.reverse :: splitLines [] cs else splitLines (c :: line) cs

/-- A decimal digit. -/
def decDigit (c : Char) : Option (Fin 10) :=
  if 48 ≤ c.toNat ∧ c.toNat ≤ 57 then some (Fin.ofNat 10 (c.toNat - 48)) else none

/-- A hex digit, in either case (log 16). -/
def hexDigit (c : Char) : Option (BitVec 4) :=
  if 48 ≤ c.toNat ∧ c.toNat ≤ 57 then some (BitVec.ofNat 4 (c.toNat - 48))
  else if 65 ≤ c.toNat ∧ c.toNat ≤ 70 then some (BitVec.ofNat 4 (c.toNat - 55))
  else if 97 ≤ c.toNat ∧ c.toNat ≤ 102 then some (BitVec.ofNat 4 (c.toNat - 87))
  else none

/-- A frame byte: exactly two hex digits, no prefix (R96). -/
def readByte : List Char → Except AsmError Byte
  | [a, b] =>
    match hexDigit a, hexDigit b with
    | some h, some l => .ok (h ++ l)
    | _, _ => .error .byteDigits
  | _ => .error .byteDigits

/-- A nonempty run of decimal digits (R96). -/
def readNat (cs : List Char) : Except AsmError Nat :=
  match cs.mapM decDigit with
  | some (d :: ds) => .ok ((d :: ds).foldl (fun n d => 10 * n + d.val) 0)
  | _ => .error .badNumber

/-- A decimal integer with an optional leading minus (R96). -/
def readInt : List Char → Except AsmError Int
  | '-' :: cs => (readNat cs).map fun n => -(n : Int)
  | cs => (readNat cs).map fun n => (n : Int)

/-- The unsigned part of a decimal: digits, then at most one point and digits (R97). -/
def readUnsignedDecimal (negative : Bool) (cs : List Char) : Except AsmError Decimal :=
  match readNat (cs.takeWhile (· != '.')), ((cs.dropWhile (· != '.')).drop 1).mapM decDigit with
  | .ok whole, some fraction => .ok ⟨negative, whole, fraction⟩
  | _, _ => .error .badNumber

/-- A decimal with an optional leading minus (R97). -/
def readDecimal : List Char → Except AsmError Decimal
  | '-' :: cs => readUnsignedDecimal true cs
  | cs => readUnsignedDecimal false cs

/-- The sensor id of DECODE.MK: decimal, or hex with `0x` (R98). -/
def readId : List Char → Except AsmError Nat
  | '0' :: 'x' :: cs =>
    match cs.mapM hexDigit with
    | some (d :: ds) => .ok ((d :: ds).foldl (fun n d => 16 * n + d.toNat) 0)
    | _ => .error .badNumber
  | cs => readNat cs

/-- The frame bytes of DECODE and DECODE_CONVERT (R95). -/
def readFrame (words : List (List Char)) : Except AsmError (List Byte) := words.mapM readByte

/-- Two operands with a comma between them (R95, R97). -/
def readPair {α : Type} (read : List Char → Except AsmError α) :
    List (List Char) → Except AsmError (α × α)
  | [x, [','], y] =>
    match read x, read y with
    | .ok a, .ok b => .ok (a, b)
    | .error e, _ => .error e
    | _, .error e => .error e
  | _ => .error .badOperands

/-- The three numbers of DECODE.MK (R98). -/
def readMkNumbers (x y z : List Char) : Except AsmError (Nat × Nat × Nat) :=
  match readNat x, readNat y, readId z with
  | .ok a, .ok b, .ok i => .ok (a, b, i)
  | _, _, _ => .error .badNumber

/-- The operands of DECODE.MK and DECODE_CONVERT.MK: p25, p10, id and an optional commander byte (R98). -/
def readMk : List (List Char) → Except AsmError ((Nat × Nat × Nat) × Option Byte)
  | [x, [','], y, [','], z] => (readMkNumbers x y z).map fun n => (n, none)
  | [x, [','], y, [','], z, [','], c] =>
    match readMkNumbers x y z, readByte c with
    | .ok n, .ok b => .ok (n, some b)
    | .error e, _ => .error e
    | _, .error e => .error e
  | _ => .error .badOperands

/-- The digits of `.cmd 0x…` (R95). -/
def readCmd : List (List Char) → Except AsmError (List (BitVec 4))
  | ['0' :: 'x' :: cs] =>
    match cs.mapM hexDigit with
    | some ds => .ok ds
    | none => .error .cmdDigits
  | [_] => .error .cmdDigits
  | _ => .error .badOperands

/-- A send statement from its words (R95, R97, R98); mnemonics are upper case. -/
def readSend : List (List Char) → Except AsmError SendStmt
  | [] => .error .unknownStatement
  | m :: ops =>
    if m = "DECODE".toList then (readFrame ops).map .decode
    else if m = "DECODE_CONVERT".toList then (readFrame ops).map .decodeConvert
    else if m = "CONVERT".toList then (readPair readInt ops).map fun p => .convert p.1 p.2
    else if m = ".cmd".toList then (readCmd ops).map .cmd
    else if m = "CONVERT.UG".toList then (readPair readDecimal ops).map fun p => .convertUg p.1 p.2
    else if m = "DECODE.MK".toList then
      (readMk ops).map fun p => .decodeMk p.1.1 p.1.2.1 p.1.2.2 p.2
    else if m = "DECODE_CONVERT.MK".toList then
      (readMk ops).map fun p => .decodeConvertMk p.1.1 p.1.2.1 p.1.2.2 p.2
    else .error .unknownStatement

/-- A statement from the words of its line (R95, R99). -/
def readStmt : List (List Char) → Except AsmError AsmStmt
  | [] => .error .unknownStatement
  | m :: ops =>
    if m = "CALL".toList then (readSend ops).map .call
    else if m = "RECV".toList then (if ops.isEmpty then .ok .recv else .error .badOperands)
    else if m = "RESET".toList then (if ops.isEmpty then .ok .reset else .error .badOperands)
    else (readSend (m :: ops)).map .send

/-- The host statements of one line; a comment runs from `;` to the end, a blank line is allowed (R95). -/
def assembleLine (line : List Char) : Except AsmError (List HostStmt) :=
  match splitWords [] (line.takeWhile (· != ';')) with
  | [] => .ok []
  | words =>
    match readStmt words with
    | .ok stmt => asmStmt stmt
    | .error e => .error e

/-- The host program of the given lines; a refusal names its line (R96). -/
def assembleLines (number : Nat) : List (List Char) → Except (Nat × AsmError) (List HostStmt)
  | [] => .ok []
  | line :: lines =>
    match assembleLine line, assembleLines (number + 1) lines with
    | .ok stmts, .ok rest => .ok (stmts ++ rest)
    | .error e, _ => .error (number, e)
    | _, .error e => .error e

/-- The assembler: a text to a host program, lines numbered from 1 (R95, R96). -/
def assemble (text : List Char) : Except (Nat × AsmError) (List HostStmt) :=
  assembleLines 1 (splitLines [] text)

/-- A run's start: the host program from the state *after_reset* (R233, R244). -/
def startRun (program : List HostStmt) : State := { State.reset with hostProgram := program }

end Sys2Proof.Machine
end

