-- ==== Sys2Proof/Machine/Instances.lean ====
section
/-! DEFINITION. Several AQI-CORE instances: each has its own state, and BPT is the same constant in each (R77,
R213). Which instance takes the next edge is the caller's choice: instances are unordered (R77; log 17). -/

namespace Sys2Proof.Machine

/-- One instance among several: its LATENCY less one, and its state. DESIGN CHOICE (log 22): each instance has a LATENCY
of its own, fixed data beside its state, so instances may differ in it. R7 and R213 leave open whether they do. -/
structure Block where
  latencyPred : Nat
  state : State
  deriving DecidableEq, Repr

/-- The instance's LATENCY, any integer at least 1 (R7, R241; log 22). -/
def Block.latency (b : Block) : Nat := b.latencyPred + 1

/-- One edge of instance `k`, with that instance's own LATENCY (the model's choice, log 22); a number that names no
instance changes nothing. -/
def stepInstance (k : Nat) (blocks : List Block) : Host.Outcome (List Block) Fault Refusal :=
  match blocks[k]? with
  | none => .next blocks
  | some b =>
    match edge b.latency b.state with
    | .next t => .next (blocks.set k { b with state := t })
    | .fault f => .fault f
    | .refused r => .refused r

end Sys2Proof.Machine
end

