-- ==== Sys2Proof/Safety.lean ====
section
/-! DEFINITION. What counts as a good state and as the end of a run, in the terms claims use. -/

namespace Sys2Proof.Safety

open Sys2Proof.Machine

/-- The three states of R40. -/
inductive Phase where
  | idle
  | computing
  | presenting
  deriving DecidableEq, Repr

/-- The state of R40 by (BUSY, RSP_VALID); (0, 1) is none of them (R29). -/
def phase (s : State) : Option Phase :=
  match s.busy, s.rspValid with
  | false, false => some .idle
  | true, false => some .computing
  | true, true => some .presenting
  | false, true => none

/-- The model's invariant. -/
structure Inv (s : State) : Prop where
  /-- BPT holds its constant contents (R36, R140). -/
  bpt : s.bpt = bptRom
  /-- RSP_VALID implies BUSY (R29). -/
  validBusy : s.rspValid = true → s.busy = true
  /-- RSP is zero, as RESET leaves it, or the response of some command word (R30, R32). -/
  rsp : s.rsp = 0 ∨ IsResponse bptRom s.rsp
  /-- While RSP_VALID, RSP is the response of some command word (R38, R73). -/
  presented : s.rspValid = true → IsResponse bptRom s.rsp
  /-- In COMPUTING, INFLIGHT is the response of some command word (R33, R37). -/
  inflight : computing s = true → IsResponse bptRom s.inflight
  /-- PRESENT is not overdue (R38, R241). -/
  elapsed : computing s = true → s.elapsed < Config.latency

/-- The run has ended: the host has executed its last statement and the block is in IDLE (R244). -/
def runEnded (s : State) : Prop := s.hostProgram = [] ∧ phase s = some .idle

/-- The result of a run: the responses recorded, in order, and the final RSP (R244). -/
def runResult (s : State) : List RspWord × RspWord := (s.responses, s.rsp)

/-- The host program asserts `rst` at no edge. -/
def NoReset (program : List HostStmt) : Prop := ∀ stmt ∈ program, (stmtPins stmt).rst = false

/-- The host program that calls each word in turn: a send, then RECV (R99). -/
def callAll (words : List CmdWord) : List HostStmt := words.flatMap fun w => [.send w, .recv]

/-- The AQI fields of a response word, as integers: AQI_INT, AQI_REM, AQI_DEN and CATEGORY (R30). -/
def HoldsAqi (v : RspWord) (int rem den : Int) (category : Nat) : Prop :=
  ((rspAqiInt v).toNat : Int) = int ∧ ((rspAqiRem v).toNat : Int) = rem ∧ ((rspAqiDen v).toNat : Int) = den
    ∧ (rspCategory v).toNat = category

/-- If `p` lies in the bracket from `l` to `h`, the AQI fields are those of R144 for that bracket, with AQI ceilings
`al` and `ah` and the upper row `i`. -/
def HoldsBracket (v : RspWord) (p : Int) (i : Nat) (l h al ah : Int) : Prop :=
  l ≤ p → p < h →
    HoldsAqi v (al + (p - l) * (ah - al) / (h - l)) ((p - l) * (ah - al) % (h - l)) (h - l) i

/-- The AQI fields are Interp(p), every bracket of R140 written out and the default of R143 outside them. -/
def HoldsInterp (v : RspWord) (p : Int) : Prop :=
  HoldsBracket v p 1 0 120 0 50
    ∧ HoldsBracket v p 2 120 354 50 100
    ∧ HoldsBracket v p 3 354 554 100 150
    ∧ HoldsBracket v p 4 554 1504 150 200
    ∧ HoldsBracket v p 5 1504 2504 200 300
    ∧ HoldsBracket v p 6 2504 5004 300 500
    ∧ (p < 0 ∨ 5004 ≤ p → HoldsAqi v 0 0 1 0)

end Sys2Proof.Safety
end

