-- ==== Sys2Proof/Certificates/Slice0/Obligations.lean ====
section
/-! DEFINITION. The statements for the provers, from the numbered rules of spec/. AQI-CORE has no memory, no
program counter, no general register and no mode (R26, R27, R62, R210), so a frame here speaks of the block's
five state elements and of the host's two lists. -/

open Sys2Proof Sys2Proof.Machine Sys2Proof.Safety

/-! ### Encoding -/

/-- R87: a word decodes to a command exactly when the three conditions of Legal(w) hold. -/
def Obligations.DecodeAcceptsExactlyLegalWords : Prop :=
  ∀ w : CmdWord,
    (∃ i, decode w = .ok i) ↔
      ((w.extractLsb' 0 4 = 0x1#4 ∨ w.extractLsb' 0 4 = 0x2#4 ∨ w.extractLsb' 0 4 = 0x3#4)
        ∧ w.extractLsb' 4 12 = 0#12
        ∧ (w.extractLsb' 0 4 ≠ 0x2#4 ∨ w.extractLsb' 80 16 = 0#16))

/-- Every command decodes from its own word: no operand bit is dropped (R81, R84, R85). -/
def Obligations.DecodeOfEncodeIsIdentity : Prop :=
  ∀ i : Instr, decode (encode i) = .ok i

/-- A word that decodes is the word of the command it decodes to: no two words mean one command. -/
def Obligations.EncodeOfDecodeIsIdentity : Prop :=
  ∀ (w : CmdWord) (i : Instr), decode w = .ok i → encode i = w

/-- R84: in a format-F command frame byte k is bits [16+8k+7 : 16+8k] of the word, which is byte k+2 of the word in
stream order, and the 16-bit fields are the unsigned little-endian values of their two bytes. No payload bit is
reserved: every 80-bit payload is a frame. -/
def Obligations.FrameBytesInStreamOrder : Prop :=
  (∀ (w : CmdWord) (fb : Frame),
    (decode w = .ok (.decode fb) ∨ decode w = .ok (.decodeConvert fb)) →
    (∀ (k : Nat) (hk : k < 10),
        fb[k] = w.extractLsb' (16 + 8 * k) 8 ∧ (bytesOfWord 12 w)[k + 2]? = some fb[k])
      ∧ (pm25Raw fb).toNat = fb[2].toNat + 256 * fb[3].toNat
      ∧ (pm10Raw fb).toNat = fb[4].toNat + 256 * fb[5].toNat
      ∧ (sensorIdField fb).toNat = fb[6].toNat + 256 * fb[7].toNat)
    ∧ ∀ payload : BitVec 80,
        (∃ fb, decode (payload ++ 0x0001#16) = .ok (.decode fb))
          ∧ ∃ fb, decode (payload ++ 0x0003#16) = .ok (.decodeConvert fb)

/-- The operands of a CONVERT word: PM25_T is bits [47:16] and PM10_T bits [79:48] (30_encoding.md section 3). -/
def Obligations.ConvertOperandBits : Prop :=
  ∀ (w : CmdWord) (pm25 pm10 : BitVec 32), decode w = .ok (.convert pm25 pm10) →
    pm25 = w.extractLsb' 16 32 ∧ pm10 = w.extractLsb' 48 32

/-- The four example words of 30_encoding.md section 5, and three illegal ones. -/
def Obligations.SpecExampleWordsDecode : Prop :=
  decode 0xAB1812340096003CC0AA0001#96
      = .ok (.decode #v[0xAA, 0xC0, 0x3C, 0x00, 0x96, 0x00, 0x34, 0x12, 0x18, 0xAB])
    ∧ decode 0xAB1812340096003CC0AA0003#96
      = .ok (.decodeConvert #v[0xAA, 0xC0, 0x3C, 0x00, 0x96, 0x00, 0x34, 0x12, 0x18, 0xAB])
    ∧ decode 0x0000000000960000003C0002#96 = .ok (.convert 60 150)
    ∧ decode 0x000000000000FFFFFFFF0002#96 = .ok (.convert (-1) 0)
    ∧ decode 0x000000000000000000000000#96 = .error (.illegalOp 0)
    ∧ decode 0x000000000000000000000011#96 = .error .reservedA
    ∧ decode 0x0001000000960000003C0002#96 = .error .reservedB

/-! ### The step and the dispatch -/

/-- A step runs the decoded command: at an edge with `rst` low, BUSY 0 and a legal word offered, the step is `exec` of
the command the word decodes to, on the state in which the host has moved past a completed statement; nothing else
of the state has changed there. That one step is one rising edge is the model's choice (log 2), and so is that the
host's next statement starts at the next edge (log 23). -/
def Obligations.StepRunsDecodedCommand : Prop :=
  ∀ (s : State) (i : Instr),
    (inputPins s).rst = false → (inputPins s).cmdValid = true → s.busy = false →
    decode (inputPins s).cmdWord = .ok i →
    step s = exec i (advanceHost s)
      ∧ advanceHost s = { s with hostProgram := s.hostProgram.tail }

/-- A word placed with `withFetchWord` is taken by the very next step. How a word is placed is the model's choice
(log 3). -/
def Obligations.PlacedWordRunsNext : Prop :=
  ∀ (s : State) (nbits w : Nat) (i : Instr),
    decodeTableWord nbits w = some i →
    step (s.withFetchWord nbits w)
      = exec i { s with busy := false, rspValid := false }

/-- R37: ACCEPT is enabled at an edge with `rst` low, BUSY 0 and `cmd_valid` high; it writes Exec of the offered word to
INFLIGHT, sets BUSY, and leaves RSP and RSP_VALID unchanged. R37, R237: at any other edge the value of `cmd_word`
has no effect: two edges that differ in it alone give the same next state, INFLIGHT compared only while COMPUTING, since
it is unspecified at any other time (R33). -/
def Obligations.AcceptStep : Prop :=
  (∀ s : State, (inputPins s).rst = false → s.busy = false → (inputPins s).cmdValid = true →
    ∃ t, step s = .next t
      ∧ t.inflight = execWord s.bpt (inputPins s).cmdWord ∧ t.busy = true
      ∧ t.rsp = s.rsp ∧ t.rspValid = s.rspValid ∧ t.bpt = s.bpt ∧ t.responses = s.responses)
    ∧ ∀ (s : State) (p : Pins) (w : CmdWord) (rest : List HostStmt),
        s.hostProgram = .drive p :: rest → (p.rst = true ∨ s.busy = true ∨ p.cmdValid = false) →
        ∀ t, step s = .next t →
          ∃ u, step { s with hostProgram := .drive { p with cmdWord := w } :: rest } = .next u
            ∧ { u with inflight := t.inflight } = t ∧ (computing t = true → u.inflight = t.inflight)

/-- R89: an illegal word at an ACCEPT edge is answered through the ordinary transaction: STATUS 0xF, OP as given,
every other field 0, and RSP, RSP_VALID, BPT and the host's records unchanged. -/
def Obligations.IllegalWordAnswered : Prop :=
  ∀ s : State,
    (inputPins s).rst = false → (inputPins s).cmdValid = true → s.busy = false →
    legal (inputPins s).cmdWord = false →
    ∃ t, step s = .next t
      ∧ t.busy = true ∧ t.rsp = s.rsp ∧ t.rspValid = s.rspValid ∧ t.bpt = s.bpt ∧ t.responses = s.responses
      ∧ rspStatus t.inflight = 0xF#4
      ∧ rspOp t.inflight = (inputPins s).cmdWord.extractLsb' 0 4
      ∧ rspFailMask t.inflight = 0 ∧ rspCategory t.inflight = 0 ∧ rspCommander t.inflight = 0
      ∧ rspPm25 t.inflight = 0 ∧ rspPm10 t.inflight = 0 ∧ rspSensorId t.inflight = 0
      ∧ rspAqiInt t.inflight = 0 ∧ rspAqiRem t.inflight = 0 ∧ rspAqiDen t.inflight = 0
      ∧ rspReserved7 t.inflight = 0 ∧ rspReserved15 t.inflight = 0

/-- The frame of the three commands at ACCEPT (R37: "RSP and RSP_VALID unchanged"): of the block only BUSY and INFLIGHT
change (and the model's own edge count); BPT, the free-value count and the host's lists are unchanged. There is no
memory and no register besides (R26, R62). -/
def Obligations.CommandsChangeOnlyBusyAndInflight : Prop :=
  ∀ (i : Instr) (s t : State), exec i s = .next t →
    t.rsp = s.rsp ∧ t.rspValid = s.rspValid ∧ t.bpt = s.bpt ∧ t.draws = s.draws
      ∧ t.hostProgram = s.hostProgram ∧ t.responses = s.responses

/-- A command offered to a busy block waits: nothing changes (the model's reading of the text on commands in flight,
log 9; that INFLIGHT, where unspecified, is held too is log 6). -/
def Obligations.BusyBlockMakesCommandsWait : Prop :=
  ∀ (i : Instr) (s : State), s.busy = true → exec i s = .next s

/-! ### DECODE -/

/-- R110, R111, R113, R119, R202: DECODE completes in every state with BUSY 0, for every frame, and its response has the
STATUS of the first failed check and a FAIL_MASK bit for each failed check. The checksum is the 8-bit sum
of bytes 2 to 7, wrapped at each addition. -/
def Obligations.DecodeReportsEveryFailedCheck : Prop :=
  ∀ (fb : Frame) (s : State), s.busy = false →
    ∃ t, exec (.decode fb) s = .next t ∧ t.busy = true
      ∧ rspOp t.inflight = 0x1#4
      ∧ (rspFailMask t.inflight)[0] = decide (fb[0] ≠ 0xAA#8)
      ∧ (rspFailMask t.inflight)[1] = decide (fb[2] + fb[3] + fb[4] + fb[5] + fb[6] + fb[7] ≠ fb[8])
      ∧ (rspFailMask t.inflight)[2] = decide (fb[9] ≠ 0xAB#8)
      ∧ rspStatus t.inflight =
          (if fb[0] ≠ 0xAA#8 then 0x1#4
           else if fb[2] + fb[3] + fb[4] + fb[5] + fb[6] + fb[7] ≠ fb[8] then 0x2#4
           else if fb[9] ≠ 0xAB#8 then 0x3#4
           else 0x0#4)

/-- R114, R115, R116: DECODE of a frame that passes the three checks reports the commander byte, the two PM values as
unsigned little-endian tenths in 32 bits, and the sensor id; it computes no AQI. -/
def Obligations.DecodeReportsReading : Prop :=
  ∀ (fb : Frame) (s : State), s.busy = false →
    fb[0] = 0xAA#8 → fb[2] + fb[3] + fb[4] + fb[5] + fb[6] + fb[7] = fb[8] → fb[9] = 0xAB#8 →
    ∃ t, exec (.decode fb) s = .next t ∧ t.busy = true
      ∧ rspStatus t.inflight = 0x0#4 ∧ rspFailMask t.inflight = 0 ∧ rspOp t.inflight = 0x1#4
      ∧ rspCommander t.inflight = fb[1]
      ∧ (rspPm25 t.inflight).toNat = fb[2].toNat + 256 * fb[3].toNat
      ∧ (rspPm10 t.inflight).toNat = fb[4].toNat + 256 * fb[5].toNat
      ∧ (rspSensorId t.inflight).toNat = fb[6].toNat + 256 * fb[7].toNat
      ∧ rspCategory t.inflight = 0 ∧ rspAqiInt t.inflight = 0 ∧ rspAqiRem t.inflight = 0
      ∧ rspAqiDen t.inflight = 0
      ∧ rspReserved7 t.inflight = 0 ∧ rspReserved15 t.inflight = 0

/-- R121: a frame that fails a check yields no reading: COMMANDER, PM25, PM10 and SENSOR_ID are 0 (and
so is every field DECODE never writes). -/
def Obligations.InvalidFrameHasNoReading : Prop :=
  ∀ (fb : Frame) (s : State), s.busy = false →
    (fb[0] ≠ 0xAA#8 ∨ fb[2] + fb[3] + fb[4] + fb[5] + fb[6] + fb[7] ≠ fb[8] ∨ fb[9] ≠ 0xAB#8) →
    ∃ t, exec (.decode fb) s = .next t ∧ t.busy = true
      ∧ rspStatus t.inflight ≠ 0x0#4
      ∧ rspCommander t.inflight = 0 ∧ rspPm25 t.inflight = 0 ∧ rspPm10 t.inflight = 0
      ∧ rspSensorId t.inflight = 0
      ∧ rspCategory t.inflight = 0 ∧ rspAqiInt t.inflight = 0 ∧ rspAqiRem t.inflight = 0
      ∧ rspAqiDen t.inflight = 0
      ∧ rspReserved7 t.inflight = 0 ∧ rspReserved15 t.inflight = 0

/-- R117: the commander byte is not validated: replacing byte 1 by any value changes neither STATUS nor FAIL_MASK,
and a valid frame's response reports that value. -/
def Obligations.CommanderByteNotValidated : Prop :=
  ∀ (fb : Frame) (c : Byte) (s : State), s.busy = false →
    ∃ t u, exec (.decode fb) s = .next t ∧ exec (.decode (fb.set 1 c)) s = .next u
      ∧ rspStatus u.inflight = rspStatus t.inflight
      ∧ rspFailMask u.inflight = rspFailMask t.inflight
      ∧ (rspStatus t.inflight = 0x0#4 → rspCommander u.inflight = c)

/-- The rejection property the spec derives: a change of exactly one byte other than byte 1 of a valid frame gives
the corresponding error and no other. -/
def Obligations.SingleByteMutationRejected : Prop :=
  ∀ (fb : Frame) (k : Nat) (hk : k < 10) (b : Byte) (s : State), s.busy = false →
    fb[0] = 0xAA#8 → fb[2] + fb[3] + fb[4] + fb[5] + fb[6] + fb[7] = fb[8] → fb[9] = 0xAB#8 →
    b ≠ fb[k] → k ≠ 1 →
    ∃ t, exec (.decode (fb.set k b)) s = .next t
      ∧ rspStatus t.inflight = (if k = 0 then 0x1#4 else if k = 9 then 0x3#4 else 0x2#4)
      ∧ rspFailMask t.inflight = (if k = 0 then 0b001#3 else if k = 9 then 0b100#3 else 0b010#3)

/-- The round trip the spec derives: the frame DECODE.MK builds from a reading decodes to that reading. -/
def Obligations.EncodedReadingDecodesToItself : Prop :=
  ∀ (p25 p10 id : BitVec 16) (c : Byte) (s : State), s.busy = false →
    ∃ t, exec (.decode (mkFrame p25 p10 id c)) s = .next t
      ∧ rspStatus t.inflight = 0x0#4 ∧ rspFailMask t.inflight = 0
      ∧ rspPm25 t.inflight = p25.zeroExtend 32 ∧ rspPm10 t.inflight = p10.zeroExtend 32
      ∧ rspSensorId t.inflight = id ∧ rspCommander t.inflight = c

/-- The checksum property the spec derives: the per-step sum is the sum modulo 256. -/
def Obligations.ChecksumIsSumModulo256 : Prop :=
  ∀ fb : Frame,
    (checksum fb).toNat =
      (fb[2].toNat + fb[3].toNat + fb[4].toNat + fb[5].toNat + fb[6].toNat + fb[7].toNat) % 256

/-! ### CONVERT -/

/-- R143, R144, R147: CONVERT completes in every state with BUSY 0 whose BPT holds its contents. With p = sint(PM25_T)
and the rows written out (`HoldsInterp`): for CT[i-1] ≤ p < CT[i] the response holds AL + N div D, N mod D, D and i; for
p below 0 or at least 5004 it holds the default 0, 0, 1 and category 0; both operands are echoed, and STATUS is OK. -/
def Obligations.ConvertComputesAqi : Prop :=
  ∀ (pm25 pm10 : BitVec 32) (s : State), s.busy = false → s.bpt = bptRom →
    ∃ t, exec (.convert pm25 pm10) s = .next t ∧ t.busy = true
      ∧ rspPm25 t.inflight = pm25 ∧ rspPm10 t.inflight = pm10
      ∧ rspStatus t.inflight = 0x0#4 ∧ rspFailMask t.inflight = 0 ∧ rspOp t.inflight = 0x2#4
      ∧ rspCommander t.inflight = 0 ∧ rspSensorId t.inflight = 0
      ∧ rspReserved7 t.inflight = 0 ∧ rspReserved15 t.inflight = 0
      ∧ HoldsInterp t.inflight pm25.toInt

/-- The monotonicity the spec derives: over 0 ≤ p < 5004 the exact value AQI_INT + AQI_REM/AQI_DEN is strictly
increasing in p, and AQI_INT is non-decreasing. -/
def Obligations.AqiStrictlyIncreasing : Prop :=
  ∀ (p q pm10 pm10' : BitVec 32) (s : State), s.busy = false → s.bpt = bptRom →
    0 ≤ p.toInt → p.toInt < q.toInt → q.toInt < 5004 →
    ∃ t u, exec (.convert p pm10) s = .next t ∧ exec (.convert q pm10') s = .next u
      ∧ ((rspAqiInt t.inflight).toNat * (rspAqiDen t.inflight).toNat + (rspAqiRem t.inflight).toNat)
            * (rspAqiDen u.inflight).toNat
          < ((rspAqiInt u.inflight).toNat * (rspAqiDen u.inflight).toNat + (rspAqiRem u.inflight).toNat)
            * (rspAqiDen t.inflight).toNat
      ∧ (rspAqiInt t.inflight).toNat ≤ (rspAqiInt u.inflight).toNat

/-! ### DECODE_CONVERT -/

/-- R180 on a valid frame: the reading of DECODE with OP 3, and the AQI of its PM2.5 value by the formula of the
bracket that holds it, or the default at 5004 and above. -/
def Obligations.FusedCommandConvertsValidFrame : Prop :=
  ∀ (fb : Frame) (s : State), s.busy = false → s.bpt = bptRom →
    fb[0] = 0xAA#8 → fb[2] + fb[3] + fb[4] + fb[5] + fb[6] + fb[7] = fb[8] → fb[9] = 0xAB#8 →
    ∃ t, exec (.decodeConvert fb) s = .next t ∧ t.busy = true
      ∧ rspStatus t.inflight = 0x0#4 ∧ rspFailMask t.inflight = 0 ∧ rspOp t.inflight = 0x3#4
      ∧ rspCommander t.inflight = fb[1]
      ∧ (rspPm25 t.inflight).toNat = fb[2].toNat + 256 * fb[3].toNat
      ∧ (rspPm10 t.inflight).toNat = fb[4].toNat + 256 * fb[5].toNat
      ∧ (rspSensorId t.inflight).toNat = fb[6].toNat + 256 * fb[7].toNat
      ∧ HoldsInterp t.inflight (fb[2].toNat + 256 * fb[3].toNat : Int)
      ∧ rspReserved7 t.inflight = 0 ∧ rspReserved15 t.inflight = 0

/-- R181: for a frame that fails a check DECODE_CONVERT gives the DECODE response with OP 3: the same STATUS and
FAIL_MASK, and every reading and AQI field 0, AQI_DEN and CATEGORY included. -/
def Obligations.FusedCommandRejectsInvalidFrame : Prop :=
  ∀ (fb : Frame) (s : State), s.busy = false →
    (fb[0] ≠ 0xAA#8 ∨ fb[2] + fb[3] + fb[4] + fb[5] + fb[6] + fb[7] ≠ fb[8] ∨ fb[9] ≠ 0xAB#8) →
    ∃ t d, exec (.decodeConvert fb) s = .next t ∧ exec (.decode fb) s = .next d ∧ t.busy = true
      ∧ rspStatus d.inflight ≠ 0x0#4
      ∧ rspStatus t.inflight = rspStatus d.inflight ∧ rspFailMask t.inflight = rspFailMask d.inflight
      ∧ rspOp t.inflight = 0x3#4
      ∧ rspCommander t.inflight = 0 ∧ rspPm25 t.inflight = 0 ∧ rspPm10 t.inflight = 0
      ∧ rspSensorId t.inflight = 0 ∧ rspCategory t.inflight = 0
      ∧ rspAqiInt t.inflight = 0 ∧ rspAqiRem t.inflight = 0 ∧ rspAqiDen t.inflight = 0

/-- The equivalence the spec derives: when DECODE gives STATUS 0, DECODE_CONVERT of the same frame is that response
with OP 3 and the AQI fields of CONVERT of its PM25 and PM10. -/
def Obligations.FusedCommandIsDecodeThenConvert : Prop :=
  ∀ (fb : Frame) (s d : State), s.busy = false → s.bpt = bptRom →
    exec (.decode fb) s = .next d → rspStatus d.inflight = 0x0#4 →
    ∃ t c, exec (.decodeConvert fb) s = .next t
      ∧ exec (.convert (rspPm25 d.inflight) (rspPm10 d.inflight)) s = .next c
      ∧ rspOp t.inflight = 0x3#4
      ∧ rspStatus t.inflight = rspStatus d.inflight ∧ rspFailMask t.inflight = rspFailMask d.inflight
      ∧ rspCommander t.inflight = rspCommander d.inflight ∧ rspSensorId t.inflight = rspSensorId d.inflight
      ∧ rspPm25 t.inflight = rspPm25 d.inflight ∧ rspPm10 t.inflight = rspPm10 d.inflight
      ∧ rspAqiInt t.inflight = rspAqiInt c.inflight ∧ rspAqiRem t.inflight = rspAqiRem c.inflight
      ∧ rspAqiDen t.inflight = rspAqiDen c.inflight ∧ rspCategory t.inflight = rspCategory c.inflight

/-! ### Responses -/

/-- R31: the reserved bits RSP[7] and RSP[15:12] are 0 in every response and after reset. -/
def Obligations.ReservedResponseBitsZero : Prop :=
  (∀ (bpt : List BptRow) (w : CmdWord),
      (execWord bpt w).getLsbD 7 = false ∧ (execWord bpt w).extractLsb' 12 4 = 0#4)
    ∧ State.reset.rsp.getLsbD 7 = false ∧ State.reset.rsp.extractLsb' 12 4 = 0#4

/-- R82: the OP field selects the operation, and the response copies it, whether the word is legal or not. -/
def Obligations.ResponseCopiesOp : Prop :=
  (∀ (w : CmdWord) (i : Instr), decode w = .ok i →
      (w.extractLsb' 0 4 = 0x1#4 ∧ ∃ fb, i = .decode fb)
        ∨ (w.extractLsb' 0 4 = 0x2#4 ∧ ∃ pm25 pm10, i = .convert pm25 pm10)
        ∨ (w.extractLsb' 0 4 = 0x3#4 ∧ ∃ fb, i = .decodeConvert fb))
    ∧ ∀ (bpt : List BptRow) (w : CmdWord), rspOp (execWord bpt w) = w.extractLsb' 0 4

/-- The relation of STATUS and FAIL_MASK the spec derives: STATUS is one of 0, 1, 2, 3 and 0xF; with STATUS 1, 2 or 3
the lowest set bit of FAIL_MASK corresponds to it; with 0 or 0xF, FAIL_MASK is 0. -/
def Obligations.StatusIsLowestFailedCheck : Prop :=
  ∀ w : CmdWord,
    let v := execWord bptRom w
    (rspStatus v = 0x0#4 ∧ rspFailMask v = 0)
      ∨ (rspStatus v = 0xF#4 ∧ rspFailMask v = 0)
      ∨ (rspStatus v = 0x1#4 ∧ (rspFailMask v)[0] = true)
      ∨ (rspStatus v = 0x2#4 ∧ (rspFailMask v)[0] = false ∧ (rspFailMask v)[1] = true)
      ∨ (rspStatus v = 0x3#4 ∧ rspFailMask v = 0b100#3)

/-- The ranges the spec derives: in every response AQI_INT is at most 499, AQI_REM is below AQI_DEN or both are 0,
AQI_DEN is one of 0 (none computed), 1, 120, 234, 200, 950, 1000, 2500, and CATEGORY is at most 6. -/
def Obligations.AqiFieldsInRange : Prop :=
  ∀ w : CmdWord,
    let v := execWord bptRom w
    (rspAqiInt v).toNat ≤ 499
      ∧ ((rspAqiRem v).toNat < (rspAqiDen v).toNat ∨ (rspAqiRem v = 0 ∧ rspAqiDen v = 0))
      ∧ (rspAqiDen v).toNat ∈ [0, 1, 120, 234, 200, 950, 1000, 2500]
      ∧ (rspCategory v).toNat ≤ 6

/-! ### The transaction -/

/-- R23: the outputs as functions of the state and `rst`. -/
def Obligations.OutputsFollowState : Prop :=
  ∀ (rst : Bool) (s : State),
    ((outputPins rst s).cmdReady = true ↔ rst = false ∧ s.busy = false)
      ∧ (outputPins rst s).rspValid = s.rspValid ∧ (outputPins rst s).rspWord = s.rsp

/-- The reset column of 10_state.md section 3: BUSY 0, RSP_VALID 0, RSP all zero, BPT at its seven rows. (INFLIGHT is
unspecified there and not stated.) -/
def Obligations.ResetStateValues : Prop :=
  State.reset.busy = false ∧ State.reset.rspValid = false ∧ State.reset.rsp = 0
    ∧ State.reset.bpt.map (fun r => (r.ceiling, r.aqi, r.category.code)) =
        [(0, 0, 0), (120, 50, 1), (354, 100, 2), (554, 150, 3), (1504, 200, 4), (2504, 300, 5), (5004, 500, 6)]
    ∧ phase State.reset = some .idle

/-- R230: at an edge with `rst` high, whatever else is driven and whatever the state, BUSY, RSP_VALID and RSP are
cleared, BPT is unchanged, `cmd_ready` is 0 and no ACCEPT, PRESENT or RETIRE happens (nothing is handed to the host);
the block is then in IDLE with `cmd_ready` 1 once `rst` is low. -/
def Obligations.ResetStep : Prop :=
  ∀ s : State, (inputPins s).rst = true →
    cmdReady (inputPins s).rst s = false
      ∧ acceptEnabled (inputPins s) s = false ∧ retireEnabled (inputPins s) s = false
      ∧ ∃ t, step s = .next t
        ∧ t.busy = false ∧ t.rspValid = false ∧ t.rsp = 0 ∧ t.bpt = s.bpt ∧ t.responses = s.responses
        ∧ phase t = some .idle ∧ cmdReady false t = true

/-- R38: from ACCEPT of a word at an edge with the host not resetting, the block is COMPUTING with the old RSP after
each of the next LATENCY - 1 edges, and after the LATENCY-th edge RSP is INFLIGHT as ACCEPT left it, Exec of the
word, with RSP_VALID 1. -/
def Obligations.PresentAtLatency : Prop :=
  ∀ s : State, Inv s → NoReset s.hostProgram → acceptEnabled (inputPins s) s = true →
    (∀ k, k < Config.latency → ∃ t : State, Host.Core.run core (k + 1) s = .next t
        ∧ phase t = some .computing ∧ t.rsp = s.rsp
        ∧ t.inflight = execWord bptRom (inputPins s).cmdWord)
      ∧ ∃ t : State, Host.Core.run core (Config.latency + 1) s = .next t
        ∧ phase t = some .presenting ∧ t.rsp = execWord bptRom (inputPins s).cmdWord

/-- RETIRE (10_state.md section 4): at an edge with `rst` low, RSP_VALID 1 and `rsp_ready` 1 it clears RSP_VALID and
BUSY and leaves RSP. RSP changes only at a PRESENT, where it becomes INFLIGHT and RSP_VALID rises, and at a RESET, where
it becomes 0. That no ACCEPT is enabled at that edge, and that `cmd_ready` is low before it and high after it, is the
closing sentence there, which the spec marks as derived. -/
def Obligations.RetireStep : Prop :=
  (∀ s : State, Inv s → (inputPins s).rst = false → s.rspValid = true → (inputPins s).rspReady = true →
    acceptEnabled (inputPins s) s = false ∧ cmdReady (inputPins s).rst s = false
      ∧ ∃ t, step s = .next t
        ∧ t.rspValid = false ∧ t.busy = false ∧ t.rsp = s.rsp ∧ t.bpt = s.bpt ∧ cmdReady false t = true)
    ∧ ∀ s t : State, step s = .next t →
        t.rsp = s.rsp
          ∨ ((inputPins s).rst = true ∧ t.rsp = 0 ∧ t.rspValid = false)
          ∨ ((inputPins s).rst = false ∧ s.busy = true ∧ s.rspValid = false ∧ t.rspValid = true
              ∧ t.rsp = s.inflight)

/-- The waits of 10_state.md section 4: with no command offered in IDLE, or no `rsp_ready` in PRESENTING, an edge with `rst`
low leaves the block as it is, and only the host moves on. (That INFLIGHT, unspecified there, is held too is the model's
choice, log 6.) -/
def Obligations.WaitsHoldTheState : Prop :=
  ∀ s : State, (inputPins s).rst = false →
    ((phase s = some .idle ∧ (inputPins s).cmdValid = false)
      ∨ (phase s = some .presenting ∧ (inputPins s).rspReady = false)) →
    step s = .next { s with hostProgram := hostAfter s }

/-- A second send with no RECV between waits for ever (70_reset_and_hazards.md section 3): in PRESENTING with a send as the
host's current statement, no number of edges changes anything. (INFLIGHT, unspecified there, is held too: the model's
choice, log 6.) -/
def Obligations.SecondSendWaitsForEver : Prop :=
  ∀ (s : State) (w : CmdWord) (rest : List HostStmt) (k : Nat),
    phase s = some .presenting → s.hostProgram = .send w :: rest →
    Host.Core.run core k s = .next s

/-- BPT is never written: no step from any state, a RESET included, changes it (10_state.md section 3). -/
def Obligations.BreakpointTableNeverChanges : Prop :=
  ∀ s t : State, step s = .next t → t.bpt = s.bpt

/-- The host's records change only as a handshake says: the received responses grow by RSP at a RETIRE and are
otherwise unchanged, they do grow by it at every RETIRE of a state that meets the invariant, and the host's statements
are those left after the edge. That the host stands in State is the
model's choice (logs 2, 12, 13), and so is when its next statement starts (log 23). -/
def Obligations.HostRecordsFollowHandshakes : Prop :=
  (∀ s t : State, step s = .next t →
    t.hostProgram = hostAfter s
      ∧ ((t.responses = s.responses)
        ∨ (retireEnabled (inputPins s) s = true ∧ t.responses = s.responses ++ [s.rsp]
            ∧ t.busy = false ∧ t.rspValid = false)))
    ∧ ∀ s : State, Inv s → (inputPins s).rst = false → s.rspValid = true → (inputPins s).rspReady = true →
        ∃ t, step s = .next t ∧ t.responses = s.responses ++ [s.rsp]

/-- A STATUS code reserved by the spec in the response being presented is flagged as a fault of the run, naming the
code (the model's reading of 93_implementation_defined.md, log 10). No state that meets the invariant does so. -/
def Obligations.ReservedStatusFaultsAtPresent : Prop :=
  ∀ s : State, (inputPins s).rst = false → s.busy = true → s.rspValid = false →
    Config.latency ≤ s.elapsed + 1 →
    4 ≤ (rspStatus s.inflight).toNat → (rspStatus s.inflight).toNat ≤ 14 →
    step s = .fault (.reservedStatus (rspStatus s.inflight))

/-! ### The whole machine -/

/-- The invariant holds after reset. -/
def Obligations.ResetStateMeetsInvariant : Prop := Inv State.reset

/-- Every step keeps the invariant: BPT constant, RSP_VALID implies BUSY, every response shown or in flight is Exec
of some command word or the zero of a reset, and PRESENT is never overdue. -/
def Obligations.EveryStepKeepsInvariant : Prop :=
  ∀ s t : State, Inv s → step s = .next t → Inv t

/-- No command traps or halts (60_exceptions.md section 1): from every state that meets the invariant, whatever the host
drives, the step answers a next state, neither a fault nor a refusal. (That a computing block goes on to present is
PresentAtLatency and CallReturnsItsResponse.) -/
def Obligations.NoStepStops : Prop :=
  ∀ s : State, Inv s → ∃ t, step s = .next t

/-- CALL of a word in IDLE: after LATENCY + 2 edges the block is in IDLE again, the host has received exactly one more
response, Exec of that word, and RSP shows it. The number of edges rests on the model's choice that RECV starts at the
edge after the ACCEPT (log 23). -/
def Obligations.CallReturnsItsResponse : Prop :=
  ∀ (s : State) (w : CmdWord) (rest : List HostStmt), Inv s → phase s = some .idle →
    s.hostProgram = .send w :: .recv :: rest →
    ∃ t : State, Host.Core.run core (Config.latency + 2) s = .next t
      ∧ phase t = some .idle ∧ t.hostProgram = rest
      ∧ t.responses = s.responses ++ [execWord bptRom w] ∧ t.rsp = execWord bptRom w

/-- Responses come in command order, one for each command, each Exec of its own word (20_memory.md section 6): from IDLE,
any sequence of calls ends its run after LATENCY + 2 edges for each, with exactly those responses. The number of edges
rests on the model's choice that a statement starts at the edge after the one before it (log 23). -/
def Obligations.ResponsesInCommandOrder : Prop :=
  ∀ (words : List CmdWord) (s : State), Inv s → phase s = some .idle → s.hostProgram = callAll words →
    ∃ t : State, Host.Core.run core (words.length * (Config.latency + 2)) s = .next t
      ∧ runEnded t ∧ t.responses = s.responses ++ words.map (execWord bptRom)

/-- R44: two commands with the same word give the same response whatever came before them: two states that differ
in anything else the invariant allows, both at the ACCEPT of the same word and left without a reset, present
the same response. -/
def Obligations.ResponseDependsOnWordAlone : Prop :=
  ∀ s s' : State, Inv s → Inv s' → NoReset s.hostProgram → NoReset s'.hostProgram →
    acceptEnabled (inputPins s) s = true → acceptEnabled (inputPins s') s' = true →
    (inputPins s).cmdWord = (inputPins s').cmdWord →
    ∃ t t' : State, Host.Core.run core (Config.latency + 1) s = .next t
      ∧ Host.Core.run core (Config.latency + 1) s' = .next t'
      ∧ t.rspValid = true ∧ t'.rspValid = true ∧ t.rsp = t'.rsp

/-- Two ACCEPT edges are at least LATENCY + 2 edges apart when no reset comes between (70_reset_and_hazards.md section 4):
from an ACCEPT edge, at each of the next LATENCY + 1 edges the run goes on and no ACCEPT is enabled, whatever the host
drives. -/
def Obligations.AcceptsAreLatencyPlusTwoApart : Prop :=
  ∀ (s : State) (k : Nat), Inv s → NoReset s.hostProgram → acceptEnabled (inputPins s) s = true →
    0 < k → k < Config.latency + 2 →
    ∃ t : State, Host.Core.run core k s = .next t ∧ acceptEnabled (inputPins t) t = false

/-- An edge of one instance leaves every other instance as it is, and what it does to instance k is the edge of k's own
state with k's own LATENCY, whatever the other instances hold (20_memory.md section 6). Which instance takes an edge is
the caller's choice (log 17), a LATENCY for each instance is the model's (log 22), and so is what INFLIGHT holds outside
COMPUTING (log 6). -/
def Obligations.InstancesShareNothing : Prop :=
  ∀ (k : Nat) (blocks after : List Block), stepInstance k blocks = .next after →
    after.length = blocks.length ∧ (∀ j, j ≠ k → after[j]? = blocks[j]?)
      ∧ ∀ b, blocks[k]? = some b →
          ∃ t, edge b.latency b.state = .next t ∧ after[k]? = some { b with state := t }

/-! ### The assembler -/

/-- R99: CALL expands to the send followed by RECV, for every send statement the assembler accepts. -/
def Obligations.CallIsSendThenRecv : Prop :=
  ∀ (x : SendStmt) (stmts : List HostStmt), asmStmt (.send x) = .ok stmts →
    asmStmt (.call x) = .ok (stmts ++ [.recv])

/-- The refusals of 30_encoding.md section 6: a frame with other than ten bytes, a byte with other than two digits, a
CONVERT operand outside 32 bits and a raw word with other than 24 digits are refused, never truncated. -/
def Obligations.AssemblerRefusesBadOperands : Prop :=
  (∀ bs : List Byte, bs.length ≠ 10 →
      sendWord (.decode bs) = .error .frameLength ∧ sendWord (.decodeConvert bs) = .error .frameLength)
    ∧ (∀ cs : List Char, cs.length ≠ 2 → readByte cs = .error .byteDigits)
    ∧ (∀ x y : Int, (x < -2 ^ 31 ∨ 2 ^ 31 ≤ x ∨ y < -2 ^ 31 ∨ 2 ^ 31 ≤ y) →
        sendWord (.convert x y) = .error .operandRange)
    ∧ (∀ ds : List (BitVec 4), ds.length ≠ 24 → sendWord (.cmd ds) = .error .cmdDigits)

/-- A CONVERT the assembler accepts sends a word that decodes to CONVERT of those two's complement values. -/
def Obligations.AssembledConvertDecodesToItself : Prop :=
  ∀ x y : Int, -2 ^ 31 ≤ x → x < 2 ^ 31 → -2 ^ 31 ≤ y → y < 2 ^ 31 →
    ∃ (w : CmdWord) (a b : BitVec 32), sendWord (.convert x y) = .ok w ∧ decode w = .ok (.convert a b)
      ∧ a.toInt = x ∧ b.toInt = y
end

