-- ==== Sys2Proof/Laws/Decode.lean ====
section
/-! SUPPORT. What the decoder can answer, once for all (R83, R87); the frame bytes of a payload and of a word
(R84); and words laid out as bytes and read back (R65). -/

namespace Sys2Proof

theorem frameOfPayload_getElem (p : Payload) (k : Nat) (hk : k < 10) :
    (frameOfPayload p)[k] = p.extractLsb' (8 * k) 8 := by
  simp [frameOfPayload]

theorem payloadOfFrame_byte (fb : Frame) (k : Nat) (hk : k < 10) :
    (payloadOfFrame fb).extractLsb' (8 * k) 8 = fb[k] := by
  ext j hj
  simp only [payloadOfFrame, BitVec.getElem_extractLsb', BitVec.getLsbD_append]
  interval_cases k <;> interval_cases j <;> simp [BitVec.getLsbD_eq_getElem]

@[simp] theorem frameOfPayload_payloadOfFrame (fb : Frame) : frameOfPayload (payloadOfFrame fb) = fb := by
  refine Vector.ext fun k hk => ?_
  rw [frameOfPayload_getElem _ _ hk, payloadOfFrame_byte _ _ hk]

/-- Two payloads with the same ten bytes are equal. -/
theorem payload_ext {p q : Payload}
    (h : ∀ k, k < 10 → p.extractLsb' (8 * k) 8 = q.extractLsb' (8 * k) 8) : p = q := by
  refine BitVec.eq_of_getLsbD_eq fun i hi => ?_
  have hb := congrArg (fun v : BitVec 8 => v.getLsbD (i % 8)) (h (i / 8) (by omega))
  simpa [BitVec.getLsbD_extractLsb', Nat.mod_lt i (show 8 > 0 by decide), Nat.div_add_mod] using hb

@[simp] theorem payloadOfFrame_frameOfPayload (p : Payload) : payloadOfFrame (frameOfPayload p) = p :=
  payload_ext fun k hk => by rw [payloadOfFrame_byte _ _ hk, frameOfPayload_getElem _ _ hk]

@[simp] theorem opField_encodeF (op : BitVec 4) (fb : Frame) : opField (encodeF op fb) = op := by
  ext i hi
  simp only [opField, encodeF, BitVec.getElem_extractLsb', BitVec.getLsbD_append]
  interval_cases i <;> simp

@[simp] theorem rsvdA_encodeF (op : BitVec 4) (fb : Frame) : rsvdA (encodeF op fb) = 0 := by
  ext i hi
  simp only [rsvdA, encodeF, BitVec.getElem_extractLsb', BitVec.getLsbD_append]
  interval_cases i <;> simp

@[simp] theorem payloadField_encodeF (op : BitVec 4) (fb : Frame) :
    payloadField (encodeF op fb) = payloadOfFrame fb := by
  ext i hi
  simp only [payloadField, encodeF, BitVec.getElem_extractLsb', BitVec.getLsbD_append]
  interval_cases i <;> simp

@[simp] theorem opField_encodeV (op : BitVec 4) (a b : BitVec 32) : opField (encodeV op a b) = op := by
  ext i hi
  simp only [opField, encodeV, BitVec.getElem_extractLsb', BitVec.getLsbD_append]
  interval_cases i <;> simp

@[simp] theorem rsvdA_encodeV (op : BitVec 4) (a b : BitVec 32) : rsvdA (encodeV op a b) = 0 := by
  ext i hi
  simp only [rsvdA, encodeV, BitVec.getElem_extractLsb', BitVec.getLsbD_append]
  interval_cases i <;> simp

@[simp] theorem rsvdB_encodeV (op : BitVec 4) (a b : BitVec 32) : rsvdB (encodeV op a b) = 0 := by
  ext i hi
  simp only [rsvdB, encodeV, BitVec.getElem_extractLsb', BitVec.getLsbD_append]
  interval_cases i <;> simp

@[simp] theorem pm25Field_encodeV (op : BitVec 4) (a b : BitVec 32) : pm25Field (encodeV op a b) = a := by
  ext i hi
  simp only [pm25Field, encodeV, BitVec.getElem_extractLsb', BitVec.getLsbD_append]
  interval_cases i <;> simp

@[simp] theorem pm10Field_encodeV (op : BitVec 4) (a b : BitVec 32) : pm10Field (encodeV op a b) = b := by
  ext i hi
  simp only [pm10Field, encodeV, BitVec.getElem_extractLsb', BitVec.getLsbD_append]
  interval_cases i <;> simp

/-- Everything the decoder can accept (R83): one line per command. -/
theorem decode_ok_cases {w : CmdWord} {i : Instr} (h : decode w = .ok i) :
    (opField w = 0x1#4 ∧ rsvdA w = 0 ∧ i = .decode (frameField w))
      ∨ (opField w = 0x2#4 ∧ rsvdA w = 0 ∧ rsvdB w = 0 ∧ i = .convert (pm25Field w) (pm10Field w))
      ∨ (opField w = 0x3#4 ∧ rsvdA w = 0 ∧ i = .decodeConvert (frameField w)) := by
  unfold decode at h
  split at h
  · split at h <;> simp_all
  · split at h
    · split at h
      · split at h <;> simp_all
      · cases h
    · split at h
      · split at h <;> simp_all
      · cases h

/-- What a rejected word lacks (R88). -/
theorem decode_error_cases {w : CmdWord} {e : DecodeReject} (h : decode w = .error e) :
    (opField w ≠ 0x1#4 ∧ opField w ≠ 0x2#4 ∧ opField w ≠ 0x3#4 ∧ e = .illegalOp (opField w))
      ∨ (rsvdA w ≠ 0 ∧ e = .reservedA)
      ∨ (opField w = 0x2#4 ∧ rsvdB w ≠ 0 ∧ e = .reservedB) := by
  unfold decode at h
  split at h
  · split at h <;> simp_all
  · split at h
    · split at h
      · split at h <;> simp_all
      · simp_all
    · split at h
      · split at h <;> simp_all
      · simp_all

/-- The decoder accepts a word exactly when `legal` does. -/
theorem decode_isOk (w : CmdWord) : (∃ i, decode w = .ok i) ↔ legal w = true := by
  constructor
  · rintro ⟨i, h⟩
    rcases decode_ok_cases h with ⟨ho, ha, -⟩ | ⟨ho, ha, hb, -⟩ | ⟨ho, ha, -⟩ <;>
      simp_all [legal, legalOp, legalReservedA, legalReservedB, opField, rsvdA, rsvdB]
  · intro hl
    cases h : decode w with
    | ok i => exact ⟨i, rfl⟩
    | error e =>
      rcases decode_error_cases h with ⟨h1, h2, h3, -⟩ | ⟨ha, -⟩ | ⟨ho, hb, -⟩ <;>
        simp_all [legal, legalOp, legalReservedA, legalReservedB, opField, rsvdA, rsvdB]

theorem leValue_map_range (n x : Nat) :
    leValue ((List.range n).map fun j => BitVec.ofNat 8 (x / 256 ^ j)) = x % 256 ^ n := by
  induction n generalizing x with
  | zero => simp [leValue, Nat.mod_one]
  | succ n ih =>
    rw [List.range_succ_eq_map, List.map_cons, List.map_map, leValue]
    have : ((fun j => BitVec.ofNat 8 (x / 256 ^ j)) ∘ Nat.succ)
        = fun j => BitVec.ofNat 8 (x / 256 / 256 ^ j) := by
      funext j
      simp [Function.comp, Nat.pow_succ, Nat.div_div_eq_div_mul, Nat.mul_comm]
    rw [this, ih, pow_succ']
    simp [Nat.mod_mul]

/-- Twelve bytes hold a command word whole (R65, R80). -/
theorem leValue_bytesOfWord (w : CmdWord) : leValue (bytesOfWord 12 w) = w.toNat := by
  have h : bytesOfWord 12 w = (List.range 12).map fun j => BitVec.ofNat 8 (w.toNat / 256 ^ j) := by
    refine List.map_congr_left fun j _ => ?_
    refine BitVec.eq_of_toNat_eq ?_
    rw [BitVec.extractLsb'_toNat, Nat.shiftRight_eq_div_pow, Nat.pow_mul, BitVec.toNat_ofNat]
  rw [h, leValue_map_range, Nat.mod_eq_of_lt]
  exact lt_of_lt_of_eq w.isLt (by norm_num)

/-- The decoder on the twelve bytes of a word is the decoder on the word. -/
theorem decodeBytes_bytesOfWord (w : CmdWord) :
    decodeBytes (bytesOfWord 12 w) = (decode w).map fun i => (i, []) := by
  have hlen : (bytesOfWord 12 w).length = 12 := by simp [bytesOfWord]
  unfold decodeBytes
  rw [hlen, if_neg (by decide), List.take_of_length_le hlen.le, List.drop_of_length_le hlen.le,
    leValue_bytesOfWord, BitVec.ofNat_toNat, BitVec.setWidth_eq]

theorem decodeTableWord_eq_some {nbits w : Nat} {i : Instr} :
    decodeTableWord nbits w = some i ↔ decode (BitVec.ofNat 96 (w % 2 ^ nbits)) = .ok i := by
  unfold decodeTableWord
  rw [decodeBytes_bytesOfWord]
  cases decode (BitVec.ofNat 96 (w % 2 ^ nbits)) <;> simp [Except.map]

end Sys2Proof
end

