-- ==== Sys2Proof/Laws/Flags.lean ====
section
/-! SUPPORT. The frame checks as comparisons (R110 to R113), and the STATUS of every response (R201, R202). -/

namespace Sys2Proof.Machine

/-- The per-step sum is the sum of the six bytes in 8 bits (R111). -/
theorem checksum_eq (fb : Frame) : checksum fb = fb[2] + fb[3] + fb[4] + fb[5] + fb[6] + fb[7] := by
  simp only [checksum, checksumData, List.foldl, BitVec.ofNat_add, BitVec.ofNat_toNat, BitVec.setWidth_eq]
  rw [show (0 : Byte) + fb[2] = fb[2] from BitVec.zero_add _]

theorem headerOk_eq (fb : Frame) : headerOk fb = decide (fb[0] = 0xAA#8) := by
  simp [headerOk, headerByte, beq_eq_decide]

theorem checksumOk_eq (fb : Frame) :
    checksumOk fb = decide (fb[2] + fb[3] + fb[4] + fb[5] + fb[6] + fb[7] = fb[8]) := by
  simp [checksumOk, checksum_eq, beq_eq_decide]

theorem trailerOk_eq (fb : Frame) : trailerOk fb = decide (fb[9] = 0xAB#8) := by
  simp [trailerOk, trailerByte, beq_eq_decide]

/-- A frame is valid exactly when the three comparisons hold (R118). -/
theorem frameOk_iff (fb : Frame) :
    frameOk fb = true ↔
      (fb[0] = 0xAA#8 ∧ fb[2] + fb[3] + fb[4] + fb[5] + fb[6] + fb[7] = fb[8] ∧ fb[9] = 0xAB#8) := by
  simp [frameOk, headerOk_eq, checksumOk_eq, trailerOk_eq, and_assoc]

/-- The flags of a valid frame are clear (R203). -/
theorem flags_of_frameOk {fb : Frame} (h : frameOk fb = true) :
    failMask (headerOk fb) (checksumOk fb) (trailerOk fb) = 0 ∧
      frameStatus (headerOk fb) (checksumOk fb) (trailerOk fb) = .ok := by
  simp only [frameOk, Bool.and_eq_true] at h
  simp [h, failMask, frameStatus]

/-- A frame is valid exactly when its STATUS is OK (R118, R202). -/
theorem frameStatus_eq_ok (h c t : Bool) : frameStatus h c t = .ok ↔ (h && c && t) = true := by
  cases h <;> cases c <;> cases t <;> decide

/-- The STATUS of an invalid frame is not OK (R121). -/
theorem statusCode_of_not_frameOk {fb : Frame} (h : frameOk fb = false) :
    (frameStatus (headerOk fb) (checksumOk fb) (trailerOk fb)).code ≠ 0 := by
  have hs : frameStatus (headerOk fb) (checksumOk fb) (trailerOk fb) ≠ .ok := by
    rw [Ne, frameStatus_eq_ok]; simpa [frameOk] using h
  revert hs
  generalize frameStatus _ _ _ = x
  cases x <;> simp [Status.code]

/-- The block never gives INVALID_LENGTH to a frame, nor a code it does not produce (R201, R205). -/
theorem statusProduced_frameStatus (h c t : Bool) : statusProduced (frameStatus h c t).code = true := by
  cases h <;> cases c <;> cases t <;> decide

@[simp] theorem decodeOp_status (fb : Frame) :
    (decodeOp fb).status = frameStatus (headerOk fb) (checksumOk fb) (trailerOk fb) := by
  unfold decodeOp; split <;> rfl

@[simp] theorem decodeOp_failMask (fb : Frame) :
    (decodeOp fb).failMask = failMask (headerOk fb) (checksumOk fb) (trailerOk fb) := by
  unfold decodeOp; split <;> rfl

@[simp] theorem decodeOp_op (fb : Frame) : (decodeOp fb).op = 0x1 := by
  unfold decodeOp; split <;> rfl

theorem decodeOp_valid {fb : Frame} (h : frameOk fb = true) :
    decodeOp fb = withReading (classifyFrame 0x1 fb) fb := if_pos h

theorem decodeOp_invalid {fb : Frame} (h : frameOk fb = false) : decodeOp fb = classifyFrame 0x1 fb := by
  simp [decodeOp, h]

/-- A 16-bit field is the little-endian value of its two bytes (R64). -/
theorem memRead_two (fb : Frame) (a : Nat) (h : a + 2 ≤ 10) :
    memRead fb a 2 h = fb[a].toNat + 256 * fb[a + 1].toNat := by
  simp [memRead, List.finRange, Nat.mul_comm]

theorem memRead_two_lt (fb : Frame) (a : Nat) (h : a + 2 ≤ 10) : memRead fb a 2 h < 2 ^ 16 := by
  rw [memRead_two]
  have h0 := fb[a].isLt
  have h1 := fb[a + 1].isLt
  omega

@[simp] theorem pm25Raw_toNat (fb : Frame) : (pm25Raw fb).toNat = fb[2].toNat + 256 * fb[3].toNat := by
  rw [pm25Raw, BitVec.toNat_ofNat, Nat.mod_eq_of_lt (memRead_two_lt ..), memRead_two]

@[simp] theorem pm10Raw_toNat (fb : Frame) : (pm10Raw fb).toNat = fb[4].toNat + 256 * fb[5].toNat := by
  rw [pm10Raw, BitVec.toNat_ofNat, Nat.mod_eq_of_lt (memRead_two_lt ..), memRead_two]

@[simp] theorem sensorIdField_toNat (fb : Frame) :
    (sensorIdField fb).toNat = fb[6].toNat + 256 * fb[7].toNat := by
  rw [sensorIdField, BitVec.toNat_ofNat, Nat.mod_eq_of_lt (memRead_two_lt ..), memRead_two]

@[simp] theorem withAqi_status (r : Response) (a : AqiValue) : (withAqi r a).status = r.status := rfl
@[simp] theorem withAqi_failMask (r : Response) (a : AqiValue) : (withAqi r a).failMask = r.failMask := rfl
@[simp] theorem withAqi_op (r : Response) (a : AqiValue) : (withAqi r a).op = r.op := rfl
@[simp] theorem withAqi_commander (r : Response) (a : AqiValue) : (withAqi r a).commander = r.commander := rfl
@[simp] theorem withAqi_pm25 (r : Response) (a : AqiValue) : (withAqi r a).pm25 = r.pm25 := rfl
@[simp] theorem withAqi_pm10 (r : Response) (a : AqiValue) : (withAqi r a).pm10 = r.pm10 := rfl
@[simp] theorem withAqi_sensorId (r : Response) (a : AqiValue) : (withAqi r a).sensorId = r.sensorId := rfl
@[simp] theorem withAqi_category (r : Response) (a : AqiValue) : (withAqi r a).category = a.category := rfl
@[simp] theorem withAqi_aqiInt (r : Response) (a : AqiValue) :
    (withAqi r a).aqiInt = BitVec.ofInt 16 a.int := rfl
@[simp] theorem withAqi_aqiRem (r : Response) (a : AqiValue) :
    (withAqi r a).aqiRem = BitVec.ofInt 16 a.rem := rfl
@[simp] theorem withAqi_aqiDen (r : Response) (a : AqiValue) :
    (withAqi r a).aqiDen = BitVec.ofInt 16 a.den := rfl

end Sys2Proof.Machine
end

