-- ==== Sys2Proof/Laws/Instances.lean ====
section
/-! SUPPORT. Everything an edge of one instance among several can do, and that the machine `step` runs is one of them. -/

namespace Sys2Proof.Machine

/-- An instance with the implementation's LATENCY takes the edges of `step` (log 22). -/
theorem edge_of_coreBlock (s : State) :
    edge (Block.latency ⟨Config.latencyPred, s⟩) s = step s := rfl

/-- If an edge of instance `k` answers a next list, either no instance has that number and nothing changes, or only
that instance's state does, by its own edge. -/
theorem stepInstance_next {k : Nat} {blocks after : List Block} (h : stepInstance k blocks = .next after) :
    (blocks[k]? = none ∧ after = blocks)
      ∨ ∃ b t, blocks[k]? = some b ∧ edge b.latency b.state = .next t
          ∧ after = blocks.set k { b with state := t } := by
  unfold stepInstance at h
  split at h
  · cases h; exact .inl ⟨‹_›, rfl⟩
  · split at h
    · cases h; exact .inr ⟨_, _, ‹_›, ‹_›, rfl⟩
    · cases h
    · cases h

end Sys2Proof.Machine
end

