-- ==== Sys2Proof/Laws/Interp.lean ====
section
/-! SUPPORT. Interp over the ROM, bracket by bracket (R140, R142 to R144). -/

namespace Sys2Proof.Machine

/-- Interp over BPT's contents as one chain of brackets. -/
theorem interp_bptRom (p : Int) :
    interp bptRom p =
      if p < 0 then defaultAqi
      else if p < 120 then interpBetween ⟨0, 0, .offCharts⟩ ⟨120, 50, .good⟩ p
      else if p < 354 then interpBetween ⟨120, 50, .good⟩ ⟨354, 100, .moderate⟩ p
      else if p < 554 then interpBetween ⟨354, 100, .moderate⟩ ⟨554, 150, .unhealthyForSensitiveGroups⟩ p
      else if p < 1504 then interpBetween ⟨554, 150, .unhealthyForSensitiveGroups⟩ ⟨1504, 200, .unhealthy⟩ p
      else if p < 2504 then interpBetween ⟨1504, 200, .unhealthy⟩ ⟨2504, 300, .veryUnhealthy⟩ p
      else if p < 5004 then interpBetween ⟨2504, 300, .veryUnhealthy⟩ ⟨5004, 500, .hazardous⟩ p
      else defaultAqi := by
  unfold interp selectRow bptRom
  simp only [List.findIdx?_cons, List.findIdx?_nil, decide_eq_true_eq]
  split_ifs <;> rfl

/-- The ranges of every result over the ROM, so that no field is truncated (R145). -/
structure AqiInRange (a : AqiValue) : Prop where
  int_nonneg : 0 ≤ a.int
  int_le : a.int ≤ 499
  rem_nonneg : 0 ≤ a.rem
  rem_lt : a.rem < a.den
  den_mem : a.den ∈ [(1 : Int), 120, 234, 200, 950, 1000, 2500]

theorem interp_bptRom_inRange (p : Int) : AqiInRange (interp bptRom p) := by
  rw [interp_bptRom]
  split_ifs <;> constructor <;> simp [defaultAqi, interpBetween] <;> omega

/-- A 16-bit field holds an integer of its range whole. -/
theorem ofInt16_toNat {x : Int} (h0 : 0 ≤ x) (h1 : x < 2 ^ 16) : ((BitVec.ofInt 16 x).toNat : Int) = x := by
  rw [BitVec.toNat_ofInt, Int.toNat_of_nonneg (Int.emod_nonneg _ (by decide))]
  exact Int.emod_eq_of_lt h0 h1

end Sys2Proof.Machine
end

