-- ==== Sys2Proof/Laws/Response.lean ====
section
/-! SUPPORT. The fields of a packed response are the fields it was packed from (R30), and no packed response
with a STATUS the block produces is a fault (R31, R201). -/

namespace Sys2Proof.Machine

@[simp] theorem rspStatus_packResponse (r : Response) : rspStatus (packResponse r) = r.status.code := by
  ext i hi
  simp only [rspStatus, packResponse, BitVec.getElem_extractLsb', BitVec.getLsbD_append]
  interval_cases i <;> simp

@[simp] theorem rspFailMask_packResponse (r : Response) : rspFailMask (packResponse r) = r.failMask := by
  ext i hi
  simp only [rspFailMask, packResponse, BitVec.getElem_extractLsb', BitVec.getLsbD_append]
  interval_cases i <;> simp

@[simp] theorem rspReserved7_packResponse (r : Response) : rspReserved7 (packResponse r) = 0 := by
  ext i hi
  simp only [rspReserved7, packResponse, BitVec.getElem_extractLsb', BitVec.getLsbD_append]
  interval_cases i
  simp

@[simp] theorem rspOp_packResponse (r : Response) : rspOp (packResponse r) = r.op := by
  ext i hi
  simp only [rspOp, packResponse, BitVec.getElem_extractLsb', BitVec.getLsbD_append]
  interval_cases i <;> simp

@[simp] theorem rspReserved15_packResponse (r : Response) : rspReserved15 (packResponse r) = 0 := by
  ext i hi
  simp only [rspReserved15, packResponse, BitVec.getElem_extractLsb', BitVec.getLsbD_append]
  interval_cases i <;> simp

@[simp] theorem rspCategory_packResponse (r : Response) : rspCategory (packResponse r) = r.category.code := by
  ext i hi
  simp only [rspCategory, packResponse, BitVec.getElem_extractLsb', BitVec.getLsbD_append]
  interval_cases i <;> simp

@[simp] theorem rspCommander_packResponse (r : Response) : rspCommander (packResponse r) = r.commander := by
  ext i hi
  simp only [rspCommander, packResponse, BitVec.getElem_extractLsb', BitVec.getLsbD_append]
  interval_cases i <;> simp

@[simp] theorem rspPm25_packResponse (r : Response) : rspPm25 (packResponse r) = r.pm25 := by
  ext i hi
  simp only [rspPm25, packResponse, BitVec.getElem_extractLsb', BitVec.getLsbD_append]
  interval_cases i <;> simp

@[simp] theorem rspPm10_packResponse (r : Response) : rspPm10 (packResponse r) = r.pm10 := by
  ext i hi
  simp only [rspPm10, packResponse, BitVec.getElem_extractLsb', BitVec.getLsbD_append]
  interval_cases i <;> simp

@[simp] theorem rspSensorId_packResponse (r : Response) : rspSensorId (packResponse r) = r.sensorId := by
  ext i hi
  simp only [rspSensorId, packResponse, BitVec.getElem_extractLsb', BitVec.getLsbD_append]
  interval_cases i <;> simp

@[simp] theorem rspAqiInt_packResponse (r : Response) : rspAqiInt (packResponse r) = r.aqiInt := by
  ext i hi
  simp only [rspAqiInt, packResponse, BitVec.getElem_extractLsb', BitVec.getLsbD_append]
  interval_cases i <;> simp

@[simp] theorem rspAqiRem_packResponse (r : Response) : rspAqiRem (packResponse r) = r.aqiRem := by
  ext i hi
  simp only [rspAqiRem, packResponse, BitVec.getElem_extractLsb', BitVec.getLsbD_append]
  interval_cases i <;> simp

@[simp] theorem rspAqiDen_packResponse (r : Response) : rspAqiDen (packResponse r) = r.aqiDen := by
  ext i hi
  simp only [rspAqiDen, packResponse, BitVec.getElem_extractLsb', BitVec.getLsbD_append]
  interval_cases i <;> simp

theorem responseFault_packResponse (r : Response) (h : statusProduced r.status.code = true) :
    responseFault (packResponse r) = none := by
  simp [responseFault, h]

end Sys2Proof.Machine
end

