-- ==== Sys2Proof/Laws/Respond.lean ====
section
/-! SUPPORT. The response of every command word (R90): its STATUS and OP, that it is never a fault, and that the
ACCEPT of a word stores exactly Exec of it. -/

namespace Sys2Proof.Machine

theorem execWord_ok {w : CmdWord} {i : Instr} (bpt : List BptRow) (h : decode w = .ok i) :
    execWord bpt w = packResponse (commandResponse bpt i) := by
  simp [execWord, h]

theorem execWord_error {w : CmdWord} {e : DecodeReject} (bpt : List BptRow) (h : decode w = .error e) :
    execWord bpt w = packResponse (illegalResponse w) := by
  simp [execWord, h]

theorem decodeConvertOp_eq (bpt : List BptRow) (fb : Frame) :
    decodeConvertOp bpt fb =
      if frameOk fb then
        withAqi { decodeOp fb with op := 0x3 } (interp bpt (unsignedTenths (decodeOp fb).pm25))
      else { decodeOp fb with op := 0x3 } := by
  unfold decodeConvertOp
  by_cases h : frameOk fb = true
  · rw [if_pos h, if_pos]
    exact (decodeOp_status fb).trans ((frameStatus_eq_ok _ _ _).mpr h)
  · rw [if_neg h, if_neg]
    exact fun hs => h ((frameStatus_eq_ok _ _ _).mp ((decodeOp_status fb).symm.trans hs))

@[simp] theorem decodeConvertOp_status (bpt : List BptRow) (fb : Frame) :
    (decodeConvertOp bpt fb).status = frameStatus (headerOk fb) (checksumOk fb) (trailerOk fb) := by
  rw [decodeConvertOp_eq]; split <;> exact decodeOp_status fb

@[simp] theorem decodeConvertOp_failMask (bpt : List BptRow) (fb : Frame) :
    (decodeConvertOp bpt fb).failMask = failMask (headerOk fb) (checksumOk fb) (trailerOk fb) := by
  rw [decodeConvertOp_eq]; split <;> exact decodeOp_failMask fb

@[simp] theorem decodeConvertOp_op (bpt : List BptRow) (fb : Frame) : (decodeConvertOp bpt fb).op = 0x3 := by
  rw [decodeConvertOp_eq]; split <;> rfl

/-- The block produces only the codes of R201 for a legal command. -/
theorem statusProduced_commandResponse (bpt : List BptRow) (i : Instr) :
    statusProduced (commandResponse bpt i).status.code = true := by
  cases i with
  | decode fb => simpa [commandResponse] using statusProduced_frameStatus _ _ _
  | convert pm25 pm10 => rfl
  | decodeConvert fb => simpa [commandResponse] using statusProduced_frameStatus _ _ _

/-- No response the block computes is one of the faults of U3 to U5. -/
@[simp] theorem responseFault_execWord (bpt : List BptRow) (w : CmdWord) :
    responseFault (execWord bpt w) = none := by
  cases h : decode w with
  | ok i => rw [execWord_ok bpt h]; exact responseFault_packResponse _ (statusProduced_commandResponse bpt i)
  | error e => rw [execWord_error bpt h]; exact responseFault_packResponse _ rfl

theorem responseFault_of_isResponse {bpt : List BptRow} {v : RspWord} (h : IsResponse bpt v) :
    responseFault v = none := by
  obtain ⟨w, rfl⟩ := h
  exact responseFault_execWord bpt w

/-- Every command is the ACCEPT of its response (R37, R90). -/
theorem exec_eq_accept (i : Instr) (s : State) :
    exec i s = accept (packResponse (commandResponse s.bpt i)) s := by
  cases i <;> rfl

/-- ACCEPT of a word, legal or not, is ACCEPT of Exec of it (R37, R89). -/
theorem acceptWord_eq_accept (w : CmdWord) (s : State) : acceptWord w s = accept (execWord s.bpt w) s := by
  unfold acceptWord
  cases h : decode w with
  | ok i => simp only [execWord_ok s.bpt h]; exact exec_eq_accept i s
  | error e => simp only [execWord_error s.bpt h]; rfl

end Sys2Proof.Machine
end

