-- ==== Sys2Proof/Laws/State.lean ====
section
/-! SUPPORT. One lemma per field of State for each named update of it, true by rfl. -/

namespace Sys2Proof.Machine

@[simp] theorem advanceHost_busy (s : State) : (advanceHost s).busy = s.busy := rfl
@[simp] theorem advanceHost_rspValid (s : State) : (advanceHost s).rspValid = s.rspValid := rfl
@[simp] theorem advanceHost_rsp (s : State) : (advanceHost s).rsp = s.rsp := rfl
@[simp] theorem advanceHost_inflight (s : State) : (advanceHost s).inflight = s.inflight := rfl
@[simp] theorem advanceHost_bpt (s : State) : (advanceHost s).bpt = s.bpt := rfl
@[simp] theorem advanceHost_elapsed (s : State) : (advanceHost s).elapsed = s.elapsed := rfl
@[simp] theorem advanceHost_draws (s : State) : (advanceHost s).draws = s.draws := rfl
@[simp] theorem advanceHost_hostProgram (s : State) : (advanceHost s).hostProgram = hostAfter s := rfl
@[simp] theorem advanceHost_responses (s : State) : (advanceHost s).responses = s.responses := rfl

@[simp] theorem forgetInflight_busy (s : State) : (forgetInflight s).busy = s.busy := rfl
@[simp] theorem forgetInflight_rspValid (s : State) : (forgetInflight s).rspValid = s.rspValid := rfl
@[simp] theorem forgetInflight_rsp (s : State) : (forgetInflight s).rsp = s.rsp := rfl
@[simp] theorem forgetInflight_inflight (s : State) : (forgetInflight s).inflight = Config.unspecifiedInflight s.draws := rfl
@[simp] theorem forgetInflight_bpt (s : State) : (forgetInflight s).bpt = s.bpt := rfl
@[simp] theorem forgetInflight_elapsed (s : State) : (forgetInflight s).elapsed = s.elapsed := rfl
@[simp] theorem forgetInflight_draws (s : State) : (forgetInflight s).draws = s.draws + 1 := rfl
@[simp] theorem forgetInflight_hostProgram (s : State) : (forgetInflight s).hostProgram = s.hostProgram := rfl
@[simp] theorem forgetInflight_responses (s : State) : (forgetInflight s).responses = s.responses := rfl

@[simp] theorem resetBlock_busy (s : State) : (resetBlock s).busy = false := rfl
@[simp] theorem resetBlock_rspValid (s : State) : (resetBlock s).rspValid = false := rfl
@[simp] theorem resetBlock_rsp (s : State) : (resetBlock s).rsp = 0 := rfl
@[simp] theorem resetBlock_inflight (s : State) : (resetBlock s).inflight = Config.unspecifiedInflight s.draws := rfl
@[simp] theorem resetBlock_bpt (s : State) : (resetBlock s).bpt = s.bpt := rfl
@[simp] theorem resetBlock_elapsed (s : State) : (resetBlock s).elapsed = 0 := rfl
@[simp] theorem resetBlock_draws (s : State) : (resetBlock s).draws = s.draws + 1 := rfl
@[simp] theorem resetBlock_hostProgram (s : State) : (resetBlock s).hostProgram = s.hostProgram := rfl
@[simp] theorem resetBlock_responses (s : State) : (resetBlock s).responses = s.responses := rfl

@[simp] theorem offerWord_busy (w : CmdWord) (s : State) : (offerWord w s).busy = false := rfl
@[simp] theorem offerWord_rspValid (w : CmdWord) (s : State) : (offerWord w s).rspValid = false := rfl
@[simp] theorem offerWord_rsp (w : CmdWord) (s : State) : (offerWord w s).rsp = s.rsp := rfl
@[simp] theorem offerWord_inflight (w : CmdWord) (s : State) : (offerWord w s).inflight = s.inflight := rfl
@[simp] theorem offerWord_bpt (w : CmdWord) (s : State) : (offerWord w s).bpt = s.bpt := rfl
@[simp] theorem offerWord_elapsed (w : CmdWord) (s : State) : (offerWord w s).elapsed = s.elapsed := rfl
@[simp] theorem offerWord_draws (w : CmdWord) (s : State) : (offerWord w s).draws = s.draws := rfl
@[simp] theorem offerWord_hostProgram (w : CmdWord) (s : State) : (offerWord w s).hostProgram = .send w :: s.hostProgram := rfl
@[simp] theorem offerWord_responses (w : CmdWord) (s : State) : (offerWord w s).responses = s.responses := rfl

@[simp] theorem acceptEnabled_advanceHost (p : Pins) (s : State) :
    acceptEnabled p (advanceHost s) = acceptEnabled p s := rfl

@[simp] theorem retireEnabled_advanceHost (p : Pins) (s : State) :
    retireEnabled p (advanceHost s) = retireEnabled p s := rfl

@[simp] theorem computing_advanceHost (s : State) : computing (advanceHost s) = computing s := rfl

@[simp] theorem inputPins_offerWord (w : CmdWord) (s : State) :
    inputPins (offerWord w s) = ⟨false, true, w, false⟩ := rfl

end Sys2Proof.Machine
end

