-- ==== Sys2Proof/Laws/Ops.lean ====
section
/-! SUPPORT. Everything each shared operation can do (R37 to R39), and everything one edge can do. -/

namespace Sys2Proof.Machine

theorem accept_of_idle {s : State} (v : RspWord) (h : s.busy = false) :
    accept v s = .next { s with inflight := v, busy := true, elapsed := 0 } := by
  simp [accept, h]

theorem accept_of_busy {s : State} (v : RspWord) (h : s.busy = true) : accept v s = .next s := by
  simp [accept, h]

/-- ACCEPT waits on a busy block and otherwise writes INFLIGHT and BUSY (R37, R236). -/
theorem accept_next {v : RspWord} {s t : State} (h : accept v s = .next t) :
    (s.busy = true ∧ t = s) ∨
      (s.busy = false ∧ t = { s with inflight := v, busy := true, elapsed := 0 }) := by
  cases hb : s.busy
  · rw [accept_of_idle v hb] at h
    exact .inr ⟨rfl, (Host.Outcome.next.inj h).symm⟩
  · rw [accept_of_busy v hb] at h
    exact .inl ⟨rfl, (Host.Outcome.next.inj h).symm⟩

/-- In every state with BUSY 0 a command is accepted: INFLIGHT is its response, BUSY is 1 (R37, R90). -/
theorem exec_of_idle (i : Instr) {s : State} (h : s.busy = false) :
    exec i s = .next
      { s with inflight := packResponse (commandResponse s.bpt i), busy := true, elapsed := 0 } := by
  rw [exec_eq_accept, accept_of_idle _ h]

theorem present_of_noFault {s : State} (h : responseFault s.inflight = none) :
    present s = .next (forgetInflight { s with rsp := s.inflight, rspValid := true }) := by
  simp [present, h]

/-- PRESENT answers a next state only for a response that is no fault (R38). -/
theorem present_next {s t : State} (h : present s = .next t) :
    responseFault s.inflight = none ∧
      t = forgetInflight { s with rsp := s.inflight, rspValid := true } := by
  unfold present at h
  split at h
  · cases h
  · next hf => exact ⟨hf, (Host.Outcome.next.inj h).symm⟩

theorem retire_of_noFault {s : State} (h : responseFault s.rsp = none) :
    retire s = .next { s with rspValid := false, busy := false, responses := s.responses ++ [s.rsp] } := by
  simp [retire, h]

/-- RETIRE answers a next state only for a response that is no fault (R39). -/
theorem retire_next {s t : State} (h : retire s = .next t) :
    responseFault s.rsp = none ∧
      t = { s with rspValid := false, busy := false, responses := s.responses ++ [s.rsp] } := by
  unfold retire at h
  split at h
  · cases h
  · next hf => exact ⟨hf, (Host.Outcome.next.inj h).symm⟩

/-- An edge in COMPUTING presents or lets one more edge go by (R38, R241). -/
theorem compute_next {latency : Nat} {s t : State} (h : compute latency s = .next t) :
    (latency ≤ s.elapsed + 1 ∧ responseFault s.inflight = none ∧
        t = forgetInflight { s with rsp := s.inflight, rspValid := true }) ∨
      (s.elapsed + 1 < latency ∧ t = { s with elapsed := s.elapsed + 1 }) := by
  unfold compute at h
  split at h
  · next hl => exact .inl ⟨hl, present_next h⟩
  · next hl => exact .inr ⟨by omega, (Host.Outcome.next.inj h).symm⟩

theorem acceptEnabled_iff (p : Pins) (s : State) :
    acceptEnabled p s = true ↔ p.rst = false ∧ s.busy = false ∧ p.cmdValid = true := by
  simp [acceptEnabled, cmdReady, and_assoc]

theorem retireEnabled_iff (p : Pins) (s : State) :
    retireEnabled p s = true ↔ p.rst = false ∧ s.rspValid = true ∧ p.rspReady = true := by
  simp [retireEnabled, and_assoc]

theorem computing_iff (s : State) : computing s = true ↔ s.busy = true ∧ s.rspValid = false := by
  simp [computing]

theorem edge_of_reset {latency : Nat} {s : State} (h : (inputPins s).rst = true) :
    edge latency s = .next (resetBlock (advanceHost s)) := by
  simp [edge, blockEdge, h]

theorem edge_of_accept {latency : Nat} {s : State} (h : acceptEnabled (inputPins s) s = true) :
    edge latency s = acceptWord (inputPins s).cmdWord (advanceHost s) := by
  have hr := ((acceptEnabled_iff _ _).mp h).1
  simp [edge, blockEdge, hr, h]

theorem edge_of_retire {latency : Nat} {s : State} (ha : acceptEnabled (inputPins s) s = false)
    (h : retireEnabled (inputPins s) s = true) : edge latency s = retire (advanceHost s) := by
  have hr := ((retireEnabled_iff _ _).mp h).1
  simp [edge, blockEdge, hr, ha, h]

theorem edge_of_computing {latency : Nat} {s : State} (hr : (inputPins s).rst = false)
    (h : computing s = true) : edge latency s = compute latency (advanceHost s) := by
  obtain ⟨hb, hv⟩ := (computing_iff s).mp h
  have ha : acceptEnabled (inputPins s) s = false := by simp [acceptEnabled, cmdReady, hb]
  have hre : retireEnabled (inputPins s) s = false := by simp [retireEnabled, hv]
  simp [edge, blockEdge, hr, ha, hre, h]

theorem edge_of_wait {latency : Nat} {s : State} (hr : (inputPins s).rst = false)
    (ha : acceptEnabled (inputPins s) s = false) (hre : retireEnabled (inputPins s) s = false)
    (hc : computing s = false) : edge latency s = .next (advanceHost s) := by
  simp [edge, blockEdge, hr, ha, hre, hc]

/-- The five things an edge can do to the block (R37 to R41, R230), with what the host keeps. -/
theorem edge_cases {latency : Nat} {s t : State} (h : edge latency s = .next t) :
    ((inputPins s).rst = true ∧ t = resetBlock (advanceHost s)) ∨
    (acceptEnabled (inputPins s) s = true ∧
      t = { advanceHost s with
        inflight := execWord s.bpt (inputPins s).cmdWord, busy := true, elapsed := 0 }) ∨
    (retireEnabled (inputPins s) s = true ∧ responseFault s.rsp = none ∧
      t = { advanceHost s with
        rspValid := false, busy := false, responses := s.responses ++ [s.rsp] }) ∨
    ((inputPins s).rst = false ∧ computing s = true ∧
      ((latency ≤ s.elapsed + 1 ∧ responseFault s.inflight = none ∧
          t = forgetInflight { advanceHost s with rsp := s.inflight, rspValid := true }) ∨
        (s.elapsed + 1 < latency ∧ t = { advanceHost s with elapsed := s.elapsed + 1 }))) ∨
    ((inputPins s).rst = false ∧ computing s = false ∧ acceptEnabled (inputPins s) s = false ∧
      retireEnabled (inputPins s) s = false ∧ t = advanceHost s) := by
  cases hr : (inputPins s).rst
  · cases ha : acceptEnabled (inputPins s) s
    · cases hre : retireEnabled (inputPins s) s
      · cases hc : computing s
        · rw [edge_of_wait hr ha hre hc] at h
          exact .inr (.inr (.inr (.inr ⟨rfl, rfl, rfl, rfl, (Host.Outcome.next.inj h).symm⟩)))
        · rw [edge_of_computing hr hc] at h
          exact .inr (.inr (.inr (.inl ⟨rfl, rfl, compute_next h⟩)))
      · rw [edge_of_retire ha hre] at h
        exact .inr (.inr (.inl ⟨rfl, retire_next h⟩))
    · rw [edge_of_accept ha, acceptWord_eq_accept,
        accept_of_idle (s := advanceHost s) _ ((acceptEnabled_iff _ _).mp ha).2.1] at h
      exact .inr (.inl ⟨rfl, (Host.Outcome.next.inj h).symm⟩)
  · rw [edge_of_reset hr] at h
    exact .inl ⟨rfl, (Host.Outcome.next.inj h).symm⟩

end Sys2Proof.Machine
end

