-- ==== Sys2Proof/Laws/PerInstr.lean ====
section
/-! SUPPORT. Per-instruction statements, about the instruction as syntax. -/

/-- The word of a command is legal in the sense of R87. -/
def Sys2Proof.Laws.EncodesLegalWord.Statement (i : Sys2Proof.Instr) : Prop :=
  Sys2Proof.legal (Sys2Proof.encode i) = true

theorem Sys2Proof.Laws.EncodesLegalWord.decode (fb : Sys2Proof.Frame) :
    Sys2Proof.Laws.EncodesLegalWord.Statement (.decode fb) := by
  refine (Sys2Proof.decode_isOk _).mp ⟨.decode (Sys2Proof.frameField (Sys2Proof.encodeF 0x1#4 fb)), ?_⟩
  simp [Sys2Proof.decode, Sys2Proof.encode]

theorem Sys2Proof.Laws.EncodesLegalWord.convert (pm25 pm10 : BitVec 32) :
    Sys2Proof.Laws.EncodesLegalWord.Statement (.convert pm25 pm10) := by
  refine (Sys2Proof.decode_isOk _).mp ⟨.convert pm25 pm10, ?_⟩
  simp [Sys2Proof.decode, Sys2Proof.encode]

theorem Sys2Proof.Laws.EncodesLegalWord.decodeConvert (fb : Sys2Proof.Frame) :
    Sys2Proof.Laws.EncodesLegalWord.Statement (.decodeConvert fb) := by
  refine (Sys2Proof.decode_isOk _).mp ⟨.decodeConvert (Sys2Proof.frameField (Sys2Proof.encodeF 0x3#4 fb)), ?_⟩
  simp [Sys2Proof.decode, Sys2Proof.encode]
end

