-- ==== Sys2Proof/Laws/Run.lean ====
section
/-! SUPPORT. Runs of several edges, and what the host's list becomes. -/

namespace Sys2Proof.Machine

open Sys2Proof.Safety

theorem run_zero (s : State) : Host.Core.run core 0 s = .next s := rfl

/-- A run begins with a step (Host/Core.lean), whatever that step answers. -/
theorem run_succ {s t : State} (k : Nat) (h : step s = .next t) :
    Host.Core.run core (k + 1) s = Host.Core.run core k t := by
  have hc : core.step s = .next t := h
  simp only [Host.Core.run, hc]

theorem run_succ_fault {s : State} {f : Fault} (k : Nat) (h : step s = .fault f) :
    Host.Core.run core (k + 1) s = .fault f := by
  have hc : core.step s = .fault f := h
  simp only [Host.Core.run, hc]

theorem run_succ_refused {s : State} {r : Refusal} (k : Nat) (h : step s = .refused r) :
    Host.Core.run core (k + 1) s = .refused r := by
  have hc : core.step s = .refused r := h
  simp only [Host.Core.run, hc]

theorem run_one (s : State) : Host.Core.run core 1 s = step s := by
  cases h : step s with
  | next t => exact run_succ 0 h
  | fault f => exact run_succ_fault 0 h
  | refused r => exact run_succ_refused 0 h

/-- Runs compose. -/
theorem run_add {s t : State} (j k : Nat) (h : Host.Core.run core j s = .next t) :
    Host.Core.run core (j + k) s = Host.Core.run core k t := by
  induction j generalizing s with
  | zero => cases Host.Outcome.next.inj h; rw [Nat.zero_add]
  | succ j ih =>
    rw [Nat.add_right_comm]
    cases hs : step s with
    | next u => rw [run_succ _ hs] at h ⊢; exact ih h
    | fault f => exact absurd (run_succ_fault j hs ▸ h) nofun
    | refused r => exact absurd (run_succ_refused j hs ▸ h) nofun

theorem run_snoc {s t : State} (k : Nat) (h : Host.Core.run core k s = .next t) :
    Host.Core.run core (k + 1) s = step t := by
  rw [run_add k 1 h, run_one]

theorem phase_idle_iff (s : State) : phase s = some .idle ↔ s.busy = false ∧ s.rspValid = false := by
  unfold phase; cases s.busy <;> cases s.rspValid <;> simp

theorem phase_computing_iff (s : State) : phase s = some .computing ↔ s.busy = true ∧ s.rspValid = false := by
  unfold phase; cases s.busy <;> cases s.rspValid <;> simp

theorem phase_presenting_iff (s : State) : phase s = some .presenting ↔ s.busy = true ∧ s.rspValid = true := by
  unfold phase; cases s.busy <;> cases s.rspValid <;> simp

/-- Under the invariant a response in flight is no fault. -/
theorem responseFault_inflight {s : State} (h : Inv s) (hc : computing s = true) :
    responseFault s.inflight = none :=
  responseFault_of_isResponse (h.inflight hc)

/-- Under the invariant a presented response is no fault. -/
theorem responseFault_presented {s : State} (h : Inv s) (hv : s.rspValid = true) :
    responseFault s.rsp = none :=
  responseFault_of_isResponse (h.presented hv)

theorem hostAfter_cases (s : State) : hostAfter s = s.hostProgram ∨ hostAfter s = s.hostProgram.tail := by
  unfold hostAfter
  split
  · next h => exact .inl h.symm
  · next stmt rest h =>
    split
    · exact .inr (by rw [h]; rfl)
    · exact .inl h.symm

/-- A host that resets at no edge goes on doing so. -/
theorem noReset_hostAfter {s : State} (h : NoReset s.hostProgram) : NoReset (hostAfter s) := by
  rcases hostAfter_cases s with h' | h' <;> rw [h']
  · exact h
  · exact fun stmt hm => h stmt (List.mem_of_mem_tail hm)

theorem noReset_inputPins {s : State} (h : NoReset s.hostProgram) : (inputPins s).rst = false := by
  unfold inputPins
  split
  · rfl
  · next stmt rest hp => exact h stmt (by rw [hp]; exact List.mem_cons_self ..)

/-- A host that resets at no edge still does not after a step. -/
theorem noReset_step {s t : State} (h : NoReset s.hostProgram) (hs : step s = .next t) :
    NoReset t.hostProgram := by
  have key : t.hostProgram = hostAfter s := by
    rcases edge_cases hs with ⟨-, rfl⟩ | ⟨-, rfl⟩ | ⟨-, -, rfl⟩ | ⟨-, -, ⟨-, -, rfl⟩ | ⟨-, rfl⟩⟩ |
      ⟨-, -, -, -, rfl⟩ <;> rfl
  rw [key]
  exact noReset_hostAfter h

end Sys2Proof.Machine
end

