-- ==== Sys2Proof/Tests/Slice0.lean ====
section
/-! SUPPORT. Tests against spec/95_test_vectors.md and the encodings of spec/30_encoding.md, and for each
obligation with hypotheses a witness that meets them. Expected values are the spec's, named by their ids. -/

open Sys2Proof Sys2Proof.Machine Sys2Proof.Safety

namespace Sys2Proof.Tests

/-- The corrected example frame (W2). -/
def goodFrame : Frame := #v[0xAA, 0xC0, 0x3C, 0x00, 0x96, 0x00, 0x34, 0x12, 0x18, 0xAB]

/-- Its DECODE word (W2). -/
def goodWord : CmdWord := 0xAB1812340096003CC0AA0001#96

/-- After reset, with a host that sends `w` and then runs `rest`. -/
def sending (w : CmdWord) (rest : List HostStmt) : State := startRun (.send w :: rest)

/-- COMPUTING, with response `v` in flight and a host that runs `rest`. -/
def computingState (v : RspWord) (rest : List HostStmt) : State :=
  { startRun rest with busy := true, inflight := v }

/-- PRESENTING response `v` to a host that runs `rest`. -/
def presentingState (v : RspWord) (rest : List HostStmt) : State :=
  { startRun rest with busy := true, rspValid := true, rsp := v }

/-- What a result leaves in INFLIGHT, when it is a next state. -/
def inflightOf : Result → Option RspWord
  | .next t => some t.inflight
  | _ => none

/-- What a result leaves in BUSY, RSP_VALID and RSP, when it is a next state. -/
def portsOf : Result → Option (Bool × Bool × RspWord)
  | .next t => some (t.busy, t.rspValid, t.rsp)
  | _ => none

/-! ### Well-formedness smoke: one ill-formed term for each check -/

theorem test_legal_accepts : legal goodWord = true ∧ legal 0x0000000000960000003C0002#96 = true := by decide
/-- I1, I2: OP 0 and OP 4. -/
theorem test_legalOp_refuses : legalOp 0#96 = false ∧ legalOp 4#96 = false := by decide
/-- I4: DECODE with RSVD_A bit 4 set. -/
theorem test_legalReservedA_refuses : legalReservedA 0x000000000000000000000011#96 = false := by decide
/-- I7: CONVERT with RSVD_B bit 80 set. -/
theorem test_legalReservedB_refuses : legalReservedB 0x0001000000960000003C0002#96 = false := by decide
/-- A DECODE's bytes 8 and 9 are no reserved bits (DV1). -/
theorem test_legalReservedB_spares_frames : legalReservedB goodWord = true := by decide
theorem test_asmFrame_refuses_nine_bytes : asmFrame [1, 2, 3, 4, 5, 6, 7, 8, 9] = .error .frameLength := by decide
theorem test_asmTenths_refuses_out_of_range :
    asmTenths 2147483648 = .error .operandRange ∧ asmTenths (-2147483649) = .error .operandRange := by decide
theorem test_asmRaw_refuses_23_digits : asmRaw (List.replicate 23 0) = .error .cmdDigits := by decide
theorem test_asmDecimal_refuses_two_digits : asmDecimal ⟨false, 6, [0, 5]⟩ = .error .fractionDigits := by decide
theorem test_readByte_refuses_one_digit : readByte ['A'] = .error .byteDigits := by decide

/-! ### Decoding: words written out from the encodings (30_encoding.md) -/

theorem test_decode_word_decode : decode 0xAB1812340096003CC0AA0001#96 = .ok (.decode goodFrame) := by decide
theorem test_decode_word_convert : decode 0x0000000000960000003C0002#96 = .ok (.convert 60 150) := by decide
theorem test_decode_word_decodeConvert :
    decode 0xAB1812340096003CC0AA0003#96 = .ok (.decodeConvert goodFrame) := by decide
/-- The bytes of the example CONVERT, byte 0 first. -/
theorem test_decodeBytes_convert :
    decodeBytes [0x02, 0x00, 0x3C, 0x00, 0x00, 0x00, 0x96, 0x00, 0x00, 0x00, 0x00, 0x00, 0x77]
      = .ok (.convert 60 150, [0x77]) := by decide
theorem test_decodeBytes_short : decodeBytes [0x01, 0x00] = .error .tooFewBytes := by decide
/-- I1, I3, I6, I9. -/
theorem test_decode_rejects :
    decode 0#96 = .error (.illegalOp 0) ∧ decode 0xF#96 = .error (.illegalOp 0xF)
      ∧ decode 0xAB1812340096003CC0AB0011#96 = .error .reservedA
      ∧ decode 0xFFFFFFFFFFFFFFFFFFFF0002#96 = .error .reservedB := by decide
theorem test_encode_words :
    encode (.decode goodFrame) = 0xAB1812340096003CC0AA0001#96
      ∧ encode (.convert (-1) 0) = 0x000000000000FFFFFFFF0002#96
      ∧ encode (.decodeConvert goodFrame) = 0xAB1812340096003CC0AA0003#96 := by decide
/-- The three table rows with every operand bit zero. -/
theorem test_decodeTableWord :
    decodeTableWord 96 1 = some (.decode (Vector.replicate 10 0))
      ∧ decodeTableWord 96 2 = some (.convert 0 0)
      ∧ decodeTableWord 96 3 = some (.decodeConvert (Vector.replicate 10 0)) := by decide

/-! ### The commands (95_test_vectors.md section 2) -/

/-- DV4: little-endian fields. -/
theorem test_decode_dv4 :
    inflightOf (exec (.decode #v[0xAA, 0xC0, 1, 2, 3, 4, 5, 6, 0x15, 0xAB]) State.reset)
      = some 0x00000000000006050000040300000201C0000100#160 := by decide
/-- DV11: checksum and trailer bad. -/
theorem test_decode_dv11 :
    inflightOf (exec (.decode #v[0xAA, 0xC0, 0x3C, 0, 0x96, 0, 0x34, 0x12, 0, 0]) State.reset)
      = some 0x0000000000000000000000000000000000000162#160 := by decide
/-- V9: the interior of bracket 4; PM10 plays no part. -/
theorem test_convert_v9 :
    inflightOf (exec (.convert 1000 (-1)) State.reset)
      = some 0x03B601C200AD0000FFFFFFFF000003E800040200#160 := by decide
/-- V6: a negative operand gives the default. -/
theorem test_convert_v6 :
    inflightOf (exec (.convert (-1) 0) State.reset)
      = some 0x000100000000000000000000FFFFFFFF00000200#160 := by decide
/-- DC6: the highest bracket value. -/
theorem test_decodeConvert_dc6 :
    inflightOf (exec (.decodeConvert #v[0xAA, 0xC0, 0x8B, 0x13, 0x0A, 0, 7, 0, 0xAF, 0xAB]) State.reset)
      = some 0x09C408FC01F300070000000A0000138BC0060300#160 := by decide
/-- DC2: no conversion of an invalid frame. -/
theorem test_decodeConvert_dc2 :
    inflightOf (exec (.decodeConvert #v[0xAA, 0xC0, 0x3C, 0, 0x96, 0, 0x34, 0x12, 0xF2, 0xAB]) State.reset)
      = some 0x0000000000000000000000000000000000000322#160 := by decide
/-- I2: an illegal word, through the step. -/
theorem test_step_illegal_i2 :
    inflightOf (step (State.reset.withFetchWord 96 4))
      = some 0x000000000000000000000000000000000000040F#160 := by decide

/-! ### The edges (program P1's cycle trace, LATENCY = 2; P4; P5) -/

/-- P1 edge 1: ACCEPT. -/
theorem test_edge_accept : portsOf (edge 2 (sending goodWord [.recv])) = some (true, false, 0) := by decide
/-- P1 edges 2 and 3: none, then PRESENT. -/
theorem test_edge_compute_present :
    portsOf (edge 2 (computingState 0x100 [.recv])) = some (true, false, 0)
      ∧ portsOf (edge 2 { computingState 0x100 [.recv] with elapsed := 1 }) = some (true, true, 0x100) := by
  decide
/-- P1 edge 4: RETIRE; RSP keeps the response. -/
theorem test_edge_retire : portsOf (edge 2 (presentingState 0x100 [.recv])) = some (false, false, 0x100) := by decide
/-- P4: the second send waits. -/
theorem test_edge_second_send_waits :
    portsOf (edge 2 (presentingState 0x100 [.send goodWord])) = some (true, true, 0x100) := by decide
/-- P5: RESET withdraws the response. -/
theorem test_edge_reset : portsOf (edge 2 (presentingState 0x100 [.reset])) = some (false, false, 0) := by decide
/-- A reserved STATUS is flagged (U3). -/
theorem test_edge_reserved_status :
    (match edge 1 (computingState 0x4 []) with
      | .fault f => some f
      | _ => none) = some (.reservedStatus 4) := by decide

/-! ### The assembler (30_encoding.md section 6) -/

theorem test_assemble_decode_mk :
    assembleLine "CALL DECODE.MK 60, 150, 0x1234 ; W2".toList = .ok [.send goodWord, .recv] := by decide
theorem test_assemble_convert_ug :
    assembleLine "CONVERT.UG 6.0, 15.0".toList = .ok [.send 0x0000000000960000003C0002#96] := by decide
theorem test_assemble_program :
    assemble "RESET\n\n.cmd 0x00".toList = .error (3, .cmdDigits) := by decide

/-! ### Witnesses: each obligation's hypotheses are met -/

theorem witness_EncodeOfDecodeIsIdentity : decode goodWord = .ok (.decode goodFrame) := by decide

theorem witness_FrameBytesInStreamOrder :
    decode goodWord = .ok (.decode goodFrame)
      ∧ decode 0xAB1812340096003CC0AA0003#96 = .ok (.decodeConvert goodFrame) := by decide

theorem witness_ConvertOperandBits : decode 0x0000000000960000003C0002#96 = .ok (.convert 60 150) := by decide

/-- For StepRunsDecodedCommand and AcceptStep. -/
theorem witness_AcceptEdge :
    let s := sending goodWord []
    (inputPins s).rst = false ∧ (inputPins s).cmdValid = true ∧ s.busy = false
      ∧ decode (inputPins s).cmdWord = .ok (.decode goodFrame) := by decide

theorem witness_PlacedWordRunsNext : decodeTableWord 96 2 = some (.convert 0 0) := by decide

/-- For IllegalWordAnswered. -/
theorem witness_IllegalWordAnswered :
    let s := sending 0x11#96 []
    (inputPins s).rst = false ∧ (inputPins s).cmdValid = true ∧ s.busy = false
      ∧ legal (inputPins s).cmdWord = false := by decide

/-- For IllegalWordAnswered: a word that breaks each condition of legality. -/
theorem test_each_illegal_condition :
    [0x0#96, 0x4#96, 0x11#96, 0x8000000000960000003C0002#96].map legal = [false, false, false, false] := by
  decide

/-- For CommandsChangeOnlyBusyAndInflight, each command. -/
theorem witness_CommandsChangeOnlyBusyAndInflight :
    (∃ t, exec (.decode goodFrame) State.reset = .next t) ∧ (∃ t, exec (.convert 60 150) State.reset = .next t)
      ∧ ∃ t, exec (.decodeConvert goodFrame) State.reset = .next t :=
  ⟨⟨_, rfl⟩, ⟨_, rfl⟩, ⟨_, rfl⟩⟩

theorem witness_BusyBlockMakesCommandsWait : (computingState 0 []).busy = true := rfl

/-- For the statements about a command in a state with BUSY 0 whose BPT holds its contents. -/
theorem witness_IdleWithTable : State.reset.busy = false ∧ State.reset.bpt = bptRom := ⟨rfl, rfl⟩

/-- For the statements about a valid frame. -/
theorem witness_ValidFrame :
    goodFrame[0] = 0xAA#8
      ∧ goodFrame[2] + goodFrame[3] + goodFrame[4] + goodFrame[5] + goodFrame[6] + goodFrame[7] = goodFrame[8]
      ∧ goodFrame[9] = 0xAB#8 := by decide

/-- For the statements about an invalid frame: each check failed alone (W7). -/
theorem witness_InvalidFrame :
    (goodFrame.set 0 0xAB)[0] ≠ 0xAA#8 ∧ (goodFrame.set 9 0xAA)[9] ≠ 0xAB#8
      ∧ (let fb := goodFrame.set 8 0x19
         fb[2] + fb[3] + fb[4] + fb[5] + fb[6] + fb[7] ≠ fb[8]) := by decide

/-- For DecodeReportsEveryFailedCheck: a frame for each STATUS (W7). -/
theorem witness_EachFrameStatus :
    [goodFrame, goodFrame.set 0 0xAB, goodFrame.set 8 0x19, goodFrame.set 9 0xAA].map
        (fun fb => (decodeOp fb).status)
      = [.ok, .invalidHeader, .checksumMismatch, .invalidTrailer] := by decide

/-- For SingleByteMutationRejected: the ends of each of its clauses (k = 0; 2 and 8; 9). -/
theorem witness_SingleByteMutation :
    (0xAB#8 ≠ goodFrame[0] ∧ 0x3D#8 ≠ goodFrame[2] ∧ 0x19#8 ≠ goodFrame[8] ∧ 0xAA#8 ≠ goodFrame[9])
      ∧ (goodFrame.set 0 0xAB)[0] = 0xAB ∧ (goodFrame.set 2 0x3D)[2] = 0x3D ∧ (goodFrame.set 8 0x19)[8] = 0x19
      ∧ (goodFrame.set 9 0xAA)[9] = 0xAA := by decide

/-- For ConvertComputesAqi and FusedCommandConvertsValidFrame: Interp at both ends of every bracket and on both sides
of the table (section 2.2). -/
theorem witness_Brackets :
    [(-1 : Int), 0, 119, 120, 353, 354, 553, 554, 1503, 1504, 2503, 2504, 5003, 5004].map
        (fun p => let a := interp bptRom p; (a.int, a.rem, a.den, a.category.code))
      = [(0, 0, 1, 0), (0, 0, 120, 1), (49, 70, 120, 1), (50, 0, 234, 2), (99, 184, 234, 2), (100, 0, 200, 3),
         (149, 150, 200, 3), (150, 0, 950, 4), (199, 900, 950, 4), (200, 0, 1000, 5), (299, 900, 1000, 5),
         (300, 0, 2500, 6), (499, 2300, 2500, 6), (0, 0, 1, 0)] := by decide

theorem witness_AqiStrictlyIncreasing :
    0 ≤ (0#32).toInt ∧ (0#32).toInt < (5003#32).toInt ∧ (5003#32).toInt < 5004 := by decide

theorem witness_FusedCommandIsDecodeThenConvert :
    ∃ d, exec (.decode goodFrame) State.reset = .next d ∧ rspStatus d.inflight = 0x0#4 :=
  ⟨_, rfl, by decide⟩

theorem witness_ResetStep : (inputPins (presentingState 0x100 [.reset])).rst = true := rfl

/-- The state after reset with any host program meets the invariant. -/
theorem startRun_inv (program : List HostStmt) : Inv (startRun program) := by
  constructor <;> simp [startRun, State.reset, computing]

/-- A presented response of a command word meets the invariant. -/
theorem presentingState_inv (w : CmdWord) (rest : List HostStmt) :
    Inv (presentingState (execWord bptRom w) rest) := by
  constructor <;> simp [presentingState, startRun, State.reset, computing, IsResponse]

/-- For PresentAtLatency, ResponseDependsOnWordAlone and AcceptsAreLatencyPlusTwoApart (with k = 1). -/
theorem witness_AcceptWithoutReset :
    Inv (sending goodWord [.recv]) ∧ NoReset (sending goodWord [.recv]).hostProgram
      ∧ acceptEnabled (inputPins (sending goodWord [.recv])) (sending goodWord [.recv]) = true := by
  refine ⟨startRun_inv _, ?_, by decide⟩
  intro stmt h
  simp only [sending, startRun, List.mem_cons, List.not_mem_nil, or_false] at h
  rcases h with rfl | rfl <;> rfl

/-- For RetireStep, and for the second clause of HostRecordsFollowHandshakes. -/
theorem witness_RetireStep :
    let s := presentingState (execWord bptRom goodWord) [.recv]
    Inv s ∧ (inputPins s).rst = false ∧ s.rspValid = true ∧ (inputPins s).rspReady = true :=
  ⟨presentingState_inv _ _, rfl, rfl, rfl⟩

/-- For WaitsHoldTheState, both waits. -/
theorem witness_WaitsHoldTheState :
    ((inputPins State.reset).rst = false ∧ phase State.reset = some .idle
        ∧ (inputPins State.reset).cmdValid = false)
      ∧ (let s := presentingState 0x100 []
         (inputPins s).rst = false ∧ phase s = some .presenting ∧ (inputPins s).rspReady = false) := by decide

theorem witness_SecondSendWaitsForEver :
    phase (presentingState 0x100 [.send goodWord]) = some .presenting
      ∧ (presentingState 0x100 [.send goodWord]).hostProgram = [.send goodWord] := by decide

/-- For the second clause of AcceptStep, each reason why there is no ACCEPT. -/
theorem witness_NoAcceptEdge :
    (presentingState 0x100 [.drive ⟨false, true, goodWord, false⟩]).busy = true
      ∧ (startRun [.drive ⟨true, true, goodWord, false⟩]).hostProgram = [.drive ⟨true, true, goodWord, false⟩]
      ∧ (startRun [.drive ⟨false, false, goodWord, false⟩]).hostProgram
          = [.drive ⟨false, false, goodWord, false⟩] := by decide

/-- Those three edges answer a next state. -/
theorem witness_NoAcceptEdge_next :
    (∃ t, step (presentingState 0x100 [.drive ⟨false, true, goodWord, false⟩]) = .next t)
      ∧ (∃ t, step (startRun [.drive ⟨true, true, goodWord, false⟩]) = .next t)
      ∧ ∃ t, step (startRun [.drive ⟨false, false, goodWord, false⟩]) = .next t :=
  ⟨⟨_, rfl⟩, ⟨_, rfl⟩, ⟨_, rfl⟩⟩

/-- For the statements about a step that answers a next state. -/
theorem witness_StepAnswersNext : ∃ t, step (sending goodWord []) = .next t := ⟨_, rfl⟩

theorem witness_ReservedStatusFaultsAtPresent :
    let s : State := { computingState 0x4 [] with elapsed := Config.latencyPred }
    (inputPins s).rst = false ∧ s.busy = true ∧ s.rspValid = false ∧ Config.latency ≤ s.elapsed + 1
      ∧ 4 ≤ (rspStatus s.inflight).toNat ∧ (rspStatus s.inflight).toNat ≤ 14 :=
  ⟨rfl, rfl, rfl, Nat.le_refl _, by decide, by decide⟩

/-- For EveryStepKeepsInvariant and NoStepStops. -/
theorem witness_InvariantAndStep : Inv (sending goodWord []) ∧ ∃ t, step (sending goodWord []) = .next t :=
  ⟨startRun_inv _, ⟨_, rfl⟩⟩

theorem witness_CallReturnsItsResponse :
    Inv (sending goodWord [.recv]) ∧ phase (sending goodWord [.recv]) = some .idle
      ∧ (sending goodWord [.recv]).hostProgram = [.send goodWord, .recv] :=
  ⟨startRun_inv _, by decide, rfl⟩

theorem witness_ResponsesInCommandOrder :
    Inv (startRun (callAll [goodWord, 0])) ∧ phase (startRun (callAll [goodWord, 0])) = some .idle
      ∧ (startRun (callAll [goodWord, 0])).hostProgram = callAll [goodWord, 0] :=
  ⟨startRun_inv _, by decide, rfl⟩

/-- Two instances of different LATENCY; the second has an edge. -/
theorem witness_InstancesShareNothing :
    ∃ after, stepInstance 1 [⟨0, State.reset⟩, ⟨3, sending goodWord []⟩] = .next after := ⟨_, rfl⟩

/-- LATENCY of its own: at LATENCY 1 an instance presents at the edge after its ACCEPT, at LATENCY 2 it does not (R38). -/
theorem test_instances_own_latency :
    (match stepInstance 0 [⟨0, computingState 0x100 []⟩, ⟨1, computingState 0x100 []⟩] with
      | .next after => after.map (·.state.rspValid)
      | _ => []) = [true, false]
    ∧ (match stepInstance 1 [⟨0, computingState 0x100 []⟩, ⟨1, computingState 0x100 []⟩] with
      | .next after => after.map (·.state.elapsed)
      | _ => []) = [0, 1] := by decide

theorem witness_CallIsSendThenRecv : asmStmt (.send (.convert 60 150))
    = .ok [.send 0x0000000000960000003C0002#96] := by decide

/-- The ends of the refusals of AssemblerRefusesBadOperands. -/
theorem witness_AssemblerRefusesBadOperands :
    ([] : List Byte).length ≠ 10 ∧ (List.replicate 11 (0 : Byte)).length ≠ 10 ∧ ['A'].length ≠ 2
      ∧ (-2147483649 : Int) < -2 ^ 31 ∧ (2 : Int) ^ 31 ≤ 2147483648
      ∧ (List.replicate 25 (0 : BitVec 4)).length ≠ 24 := by decide

theorem witness_AssembledConvertDecodesToItself :
    (-2 : Int) ^ 31 ≤ -2147483648 ∧ (2147483647 : Int) < 2 ^ 31 := by decide

end Sys2Proof.Tests
end

namespace Sys2Proof.Machine

open Sys2Proof.Safety

/-! ### What one step does, in each situation the transaction meets -/

/-- The step at an ACCEPT edge, for every word (R37, R90). -/
theorem step_of_accept {s : State} (h : acceptEnabled (inputPins s) s = true) :
    step s = .next { advanceHost s with
      inflight := execWord s.bpt (inputPins s).cmdWord, busy := true, elapsed := 0 } := by
  obtain ⟨-, hb, -⟩ := (acceptEnabled_iff _ _).mp h
  rw [step, edge_of_accept h, acceptWord_eq_accept, accept_of_idle (s := advanceHost s) _ hb]
  rfl

/-- Before the LATENCY-th edge a step in COMPUTING only counts (R38). -/
theorem step_of_computing_early {s : State} (hr : (inputPins s).rst = false) (hc : computing s = true)
    (hl : s.elapsed + 1 < Config.latency) :
    step s = .next { advanceHost s with elapsed := s.elapsed + 1 } := by
  rw [step, edge_of_computing hr hc, compute, if_neg (by simpa using hl)]
  rfl

/-- At the LATENCY-th edge a step in COMPUTING is PRESENT (R38). -/
theorem step_of_computing_due {s : State} (hr : (inputPins s).rst = false) (hc : computing s = true)
    (hl : Config.latency ≤ s.elapsed + 1) (hf : responseFault s.inflight = none) :
    step s = .next (forgetInflight { advanceHost s with rsp := s.inflight, rspValid := true }) := by
  rw [step, edge_of_computing hr hc, compute, if_pos (by simpa using hl),
    present_of_noFault (s := advanceHost s) hf]
  rfl

/-- A `drive` statement puts its pins on the ports for one edge and is then done (R42). -/
theorem step_of_drive {s : State} {p : Pins} {rest : List HostStmt} (h : s.hostProgram = .drive p :: rest) :
    step s = blockEdge Config.latency p { s with hostProgram := rest } := by
  simp [step, edge, advanceHost, hostAfter, inputPins, stmtPins, stmtDone, h]

/-- With no ACCEPT enabled the block does not look at `cmd_word` (R37, R237). -/
theorem blockEdge_cmdWord {p : Pins} {s : State} (latency : Nat) (w : CmdWord)
    (h : acceptEnabled p s = false) :
    blockEdge latency { p with cmdWord := w } s = blockEdge latency p s := by
  have hw : acceptEnabled { p with cmdWord := w } s = false := h
  simp [blockEdge, retireEnabled, h, hw]

theorem acceptEnabled_eq_false {p : Pins} {s : State}
    (h : p.rst = true ∨ s.busy = true ∨ p.cmdValid = false) : acceptEnabled p s = false := by
  rcases h with h | h | h <;> simp [acceptEnabled, cmdReady, h]

/-! ### The ports -/

theorem cmdReady_iff (rst : Bool) (s : State) : cmdReady rst s = true ↔ rst = false ∧ s.busy = false := by
  simp [cmdReady]

/-- Settles O29: `cmd_ready` by its defining condition, the other two outputs by definition. -/
theorem outputsFollowState : Obligations.OutputsFollowState :=
  fun rst s => ⟨cmdReady_iff rst s, rfl, rfl⟩

/-- Settles O9: an ACCEPT edge stores Exec of the word, and at any other edge the block does not look at the word, so
the two next states are even equal. -/
theorem acceptStep : Obligations.AcceptStep := by
  constructor
  · intro s hr hb hv
    exact ⟨_, step_of_accept ((acceptEnabled_iff _ _).mpr ⟨hr, hb, hv⟩), rfl, rfl, rfl, rfl, rfl, rfl⟩
  · intro s p w rest hp hno t ht
    have hna : acceptEnabled p { s with hostProgram := rest } = false := acceptEnabled_eq_false hno
    refine ⟨t, ?_, rfl, fun _ => rfl⟩
    rw [step_of_drive rfl, blockEdge_cmdWord _ w hna, ← ht, step_of_drive hp]

/-! ### Reserved response bits -/

/-- Every response is laid out by `packResponse` (R30, R90). -/
theorem execWord_eq_packResponse (bpt : List BptRow) (w : CmdWord) :
    ∃ r, execWord bpt w = packResponse r := by
  cases h : decode w with
  | ok i => exact ⟨_, execWord_ok bpt h⟩
  | error e => exact ⟨_, execWord_error bpt h⟩

/-- The reserved field of one bit is that bit of the word (R30). -/
theorem getLsbD_seven_of_rspReserved7 {v : RspWord} (h : rspReserved7 v = 0) : v.getLsbD 7 = false := by
  calc v.getLsbD 7 = (rspReserved7 v).getLsbD 0 := by simp only [rspReserved7, BitVec.getLsbD_extractLsb']; rfl
    _ = false := by rw [h]; rfl

/-- Settles O25: every response is packed, and the layout holds 0 in the two reserved fields. -/
theorem reservedResponseBitsZero : Obligations.ReservedResponseBitsZero := by
  refine ⟨fun bpt w => ?_, by decide, by decide⟩
  obtain ⟨r, hr⟩ := execWord_eq_packResponse bpt w
  rw [hr]
  exact ⟨getLsbD_seven_of_rspReserved7 (rspReserved7_packResponse r), rspReserved15_packResponse r⟩

/-! ### From ACCEPT to PRESENT -/

/-- The command whose response is `v` was accepted `k` edges ago and is not yet presented: the block is COMPUTING, RSP
still holds `old`, and the host will not reset. -/
structure InFlight (k : Nat) (v old : RspWord) (t : State) : Prop where
  computing : computing t = true
  elapsed : t.elapsed = k
  inflight : t.inflight = v
  rsp : t.rsp = old
  noReset : NoReset t.hostProgram

/-- An ACCEPT puts Exec of its word in flight (R37). -/
theorem step_accept_inFlight {s : State} (hi : Inv s) (hn : NoReset s.hostProgram)
    (ha : acceptEnabled (inputPins s) s = true) :
    ∃ t, step s = .next t ∧ InFlight 0 (execWord bptRom (inputPins s).cmdWord) s.rsp t := by
  have hv : s.rspValid = false := by
    obtain ⟨-, hb, -⟩ := (acceptEnabled_iff _ _).mp ha
    exact Bool.eq_false_iff.mpr fun h => by simp [hi.validBusy h] at hb
  exact ⟨_, step_of_accept ha, (computing_iff _).mpr ⟨rfl, hv⟩, rfl, by rw [← hi.bpt], rfl,
    noReset_hostAfter hn⟩

/-- An edge before the LATENCY-th keeps the command in flight (R38). -/
theorem step_inFlight {k : Nat} {v old : RspWord} {t : State} (h : InFlight k v old t)
    (hk : k + 1 < Config.latency) : ∃ u, step t = .next u ∧ InFlight (k + 1) v old u := by
  have hs := step_of_computing_early (noReset_inputPins h.noReset) h.computing (h.elapsed ▸ hk)
  exact ⟨_, hs, h.computing, by simp [h.elapsed], h.inflight, h.rsp, noReset_step h.noReset hs⟩

/-- The LATENCY-th edge presents the response in flight (R38). -/
theorem step_inFlight_presents {k : Nat} {v old : RspWord} {t : State} (h : InFlight k v old t)
    (hk : Config.latency ≤ k + 1) (hf : responseFault v = none) :
    ∃ u, step t = .next u ∧ phase u = some .presenting ∧ u.rsp = v := by
  obtain ⟨hb, -⟩ := (computing_iff t).mp h.computing
  exact ⟨_, step_of_computing_due (noReset_inputPins h.noReset) h.computing (h.elapsed ▸ hk)
    (h.inflight ▸ hf), (phase_presenting_iff _).mpr ⟨hb, rfl⟩, h.inflight⟩

/-- After an ACCEPT the command stays in flight for LATENCY - 1 more edges. -/
theorem run_accept_inFlight {s : State} (hi : Inv s) (hn : NoReset s.hostProgram)
    (ha : acceptEnabled (inputPins s) s = true) {k : Nat} (hk : k < Config.latency) :
    ∃ t, Host.Core.run core (k + 1) s = .next t
      ∧ InFlight k (execWord bptRom (inputPins s).cmdWord) s.rsp t := by
  induction k with
  | zero =>
    rw [run_one]
    exact step_accept_inFlight hi hn ha
  | succ k ih =>
    obtain ⟨t, hrun, ht⟩ := ih (by omega)
    rw [run_snoc _ hrun]
    exact step_inFlight ht hk

/-- LATENCY edges after an ACCEPT, Exec of its word is presented (R38). -/
theorem run_accept_presents {s : State} (hi : Inv s) (hn : NoReset s.hostProgram)
    (ha : acceptEnabled (inputPins s) s = true) :
    ∃ t, Host.Core.run core (Config.latency + 1) s = .next t
      ∧ phase t = some .presenting ∧ t.rsp = execWord bptRom (inputPins s).cmdWord := by
  have hlast : Config.latencyPred < Config.latency := Nat.lt_succ_self _
  obtain ⟨t, hrun, ht⟩ := run_accept_inFlight hi hn ha hlast
  have hrun' : Host.Core.run core Config.latency s = .next t := hrun
  rw [run_snoc _ hrun']
  exact step_inFlight_presents ht le_rfl (responseFault_execWord _ _)

/-- Settles O32, by induction on the edges after the ACCEPT with `InFlight` as what each of them keeps. -/
theorem presentAtLatency : Obligations.PresentAtLatency := by
  intro s hi hn ha
  refine ⟨fun k hk => ?_, run_accept_presents hi hn ha⟩
  obtain ⟨t, hrun, ht⟩ := run_accept_inFlight hi hn ha hk
  exact ⟨t, hrun, (phase_computing_iff t).mpr ((computing_iff t).mp ht.computing), ht.rsp, ht.inflight⟩

/-- Settles O44: each run presents Exec of its word, and the words are the same. -/
theorem responseDependsOnWordAlone : Obligations.ResponseDependsOnWordAlone := by
  intro s s' hi hi' hn hn' ha ha' hw
  obtain ⟨t, hrun, hp, hrsp⟩ := run_accept_presents hi hn ha
  obtain ⟨t', hrun', hp', hrsp'⟩ := run_accept_presents hi' hn' ha'
  obtain ⟨-, hv⟩ := (phase_presenting_iff t).mp hp
  obtain ⟨-, hv'⟩ := (phase_presenting_iff t').mp hp'
  exact ⟨t, t', hrun, hrun', hv, hv', by rw [hrsp, hrsp', hw]⟩

end Sys2Proof.Machine

/-! ### Encoding -/

namespace Sys2Proof

/-- `legal` is the three conditions of R87 on the bits of the word. -/
theorem legal_iff (w : CmdWord) :
    legal w = true ↔
      ((w.extractLsb' 0 4 = 0x1#4 ∨ w.extractLsb' 0 4 = 0x2#4 ∨ w.extractLsb' 0 4 = 0x3#4)
        ∧ w.extractLsb' 4 12 = 0#12
        ∧ (w.extractLsb' 0 4 ≠ 0x2#4 ∨ w.extractLsb' 80 16 = 0#16)) := by
  simp [legal, legalOp, legalReservedA, legalReservedB, and_assoc, or_assoc]

/-- Settles O1: the decoder accepts exactly the `legal` words, and `legal` is those conditions. -/
theorem decodeAcceptsExactlyLegalWords : Obligations.DecodeAcceptsExactlyLegalWords :=
  fun w => (decode_isOk w).trans (legal_iff w)

/-- A word that is not `legal` is rejected (R88). -/
theorem decode_error_of_illegal {w : CmdWord} (h : legal w = false) : ∃ e, decode w = .error e := by
  cases hd : decode w with
  | ok i => exact absurd ((decode_isOk w).mp ⟨i, hd⟩) (by simp [h])
  | error e => exact ⟨e, rfl⟩

/-- A format-F command carries the frame field of its word (R84). -/
theorem frame_of_decode {w : CmdWord} {fb : Frame}
    (h : decode w = .ok (.decode fb) ∨ decode w = .ok (.decodeConvert fb)) : fb = frameField w := by
  rcases h with h | h
  all_goals
    rcases decode_ok_cases h with ⟨-, -, hi⟩ | ⟨-, -, -, hi⟩ | ⟨-, -, hi⟩ <;> cases hi
    rfl

/-- Frame byte k is bits [16+8k+7 : 16+8k] of the word (R84). -/
theorem frameField_getElem (w : CmdWord) (k : Nat) (hk : k < 10) :
    (frameField w)[k] = w.extractLsb' (16 + 8 * k) 8 := by
  rw [frameField, frameOfPayload_getElem _ k hk, payloadField]
  refine BitVec.eq_of_getLsbD_eq fun j hj => ?_
  have hb : 8 * k + j < 80 := by omega
  simp [BitVec.getLsbD_extractLsb', hb, Nat.add_assoc]

/-- Byte j of a word laid out as `n` bytes (R65). -/
theorem bytesOfWord_getElem? {width n j : Nat} (w : BitVec width) (hj : j < n) :
    (bytesOfWord n w)[j]? = some (w.extractLsb' (8 * j) 8) := by
  simp [bytesOfWord, hj]

/-- A payload above RSVD_A = 0 and OP is the format-F word of its frame (R81). -/
theorem payload_append_eq_encodeF (p : Payload) (op : BitVec 4) :
    p ++ (0#12 ++ op) = encodeF op (frameOfPayload p) := by
  rw [encodeF, payloadOfFrame_frameOfPayload]
  exact BitVec.append_assoc'.trans (BitVec.cast_eq _ _)

/-- Every payload makes a DECODE word (R84). -/
theorem decode_payload_decode (p : Payload) :
    decode (p ++ 0x0001#16) = .ok (.decode (frameOfPayload p)) := by
  rw [show 0x0001#16 = 0#12 ++ 0x1#4 from rfl, payload_append_eq_encodeF]
  simp [decode, frameField]

/-- Every payload makes a DECODE_CONVERT word (R84). -/
theorem decode_payload_decodeConvert (p : Payload) :
    decode (p ++ 0x0003#16) = .ok (.decodeConvert (frameOfPayload p)) := by
  rw [show 0x0003#16 = 0#12 ++ 0x3#4 from rfl, payload_append_eq_encodeF]
  simp [decode, frameField]

open Sys2Proof.Machine in
/-- Settles O4: the frame is the word's frame field, so its bytes are the word's; and a payload is a frame whatever
its bits. -/
theorem frameBytesInStreamOrder : Obligations.FrameBytesInStreamOrder := by
  refine ⟨fun w fb h => ?_, fun p => ⟨⟨_, decode_payload_decode p⟩, ⟨_, decode_payload_decodeConvert p⟩⟩⟩
  obtain rfl := frame_of_decode h
  refine ⟨fun k hk => ⟨frameField_getElem w k hk, ?_⟩, pm25Raw_toNat _, pm10Raw_toNat _, sensorIdField_toNat _⟩
  rw [frameField_getElem w k hk, bytesOfWord_getElem? w (by omega), show 8 * (k + 2) = 16 + 8 * k by omega]

end Sys2Proof

namespace Sys2Proof.Machine

/-! ### Illegal words, and OP -/

/-- Exec of an illegal word is IllegalRsp of it (R89). -/
theorem execWord_of_illegal {w : CmdWord} (bpt : List BptRow) (h : legal w = false) :
    execWord bpt w = packResponse (illegalResponse w) := by
  obtain ⟨e, he⟩ := decode_error_of_illegal h
  exact execWord_error bpt he

/-- Settles O10: the ACCEPT edge stores Exec of the word, which is the packed illegal response. -/
theorem illegalWordAnswered : Obligations.IllegalWordAnswered := by
  intro s hr hv hb hl
  refine ⟨_, step_of_accept ((acceptEnabled_iff _ _).mpr ⟨hr, hb, hv⟩), rfl, rfl, rfl, rfl, rfl, ?_⟩
  rw [execWord_of_illegal s.bpt hl]
  simp [illegalResponse, zeroResponse, Status.code, Category.code, opField]

/-- The response of a legal command copies the OP of its word (R82). -/
theorem commandResponse_op {w : CmdWord} {i : Instr} (bpt : List BptRow) (h : decode w = .ok i) :
    (commandResponse bpt i).op = opField w := by
  rcases decode_ok_cases h with ⟨ho, -, rfl⟩ | ⟨ho, -, -, rfl⟩ | ⟨ho, -, rfl⟩
  · exact (decodeOp_op _).trans ho.symm
  · exact ho.symm
  · exact (decodeConvertOp_op bpt _).trans ho.symm

/-- Every response, legal word or not, copies OP (R82, R89). -/
theorem rspOp_execWord (bpt : List BptRow) (w : CmdWord) : rspOp (execWord bpt w) = opField w := by
  cases h : decode w with
  | ok i => rw [execWord_ok bpt h, rspOp_packResponse, commandResponse_op bpt h]
  | error e => rw [execWord_error bpt h, rspOp_packResponse]; rfl

/-- Settles O26: what the decoder can accept, and OP of every response. -/
theorem responseCopiesOp : Obligations.ResponseCopiesOp := by
  refine ⟨fun w i h => ?_, rspOp_execWord⟩
  rcases decode_ok_cases h with ⟨ho, -, hi⟩ | ⟨ho, -, -, hi⟩ | ⟨ho, -, hi⟩
  · exact .inl ⟨ho, _, hi⟩
  · exact .inr (.inl ⟨ho, _, _, hi⟩)
  · exact .inr (.inr ⟨ho, _, hi⟩)

/-! ### The assembler -/

/-- Settles O47: both statements assemble the same send word, or refuse it alike. -/
theorem callIsSendThenRecv : Obligations.CallIsSendThenRecv := by
  intro x stmts h
  simp only [asmStmt] at h ⊢
  cases hw : sendWord x with
  | ok w =>
    rw [hw] at h
    cases h
    rfl
  | error e =>
    rw [hw] at h
    cases h

end Sys2Proof.Machine

namespace Sys2Proof.Machine

/-! ### DECODE: the flags of a frame -/

@[simp] theorem failMask_getElem_zero (h c t : Bool) : (failMask h c t)[0] = !h := by
  cases h <;> cases c <;> cases t <;> rfl

@[simp] theorem failMask_getElem_one (h c t : Bool) : (failMask h c t)[1] = !c := by
  cases h <;> cases c <;> cases t <;> rfl

@[simp] theorem failMask_getElem_two (h c t : Bool) : (failMask h c t)[2] = !t := by
  cases h <;> cases c <;> cases t <;> rfl

/-- The STATUS codes of a frame in the order of their priority (R202). -/
theorem frameStatus_code (h c t : Bool) :
    (frameStatus h c t).code =
      if h = false then 0x1#4 else if c = false then 0x2#4 else if t = false then 0x3#4 else 0x0#4 := by
  cases h <;> cases c <;> cases t <;> rfl

/-- A frame is invalid exactly when one of the three comparisons fails (R118). -/
theorem frameOk_eq_false_iff (fb : Frame) :
    frameOk fb = false ↔
      (fb[0] ≠ 0xAA#8 ∨ fb[2] + fb[3] + fb[4] + fb[5] + fb[6] + fb[7] ≠ fb[8] ∨ fb[9] ≠ 0xAB#8) := by
  rw [← Bool.not_eq_true, frameOk_iff, not_and_or, not_and_or]

/-- The header check looks at byte 0 alone (R110). -/
theorem headerOk_set {k : Nat} (fb : Frame) (b : Byte) (hk : k < 10) (h0 : k ≠ 0) :
    headerOk (fb.set k b) = headerOk fb := by
  rw [headerOk, headerOk, Vector.getElem_set_ne _ _ h0]

/-- The checksum check looks at bytes 2 to 8 alone (R111). -/
theorem checksumOk_set {k : Nat} (fb : Frame) (b : Byte) (hk : k < 10) (hout : k < 2 ∨ 8 < k) :
    checksumOk (fb.set k b) = checksumOk fb := by
  have hne (j : Nat) (hlo : 2 ≤ j) (hhi : j ≤ 8) : (fb.set k b)[j] = fb[j] :=
    Vector.getElem_set_ne _ _ (by omega)
  simp [checksumOk_eq, hne]

/-- The trailer check looks at byte 9 alone (R113). -/
theorem trailerOk_set {k : Nat} (fb : Frame) (b : Byte) (hk : k < 10) (h9 : k ≠ 9) :
    trailerOk (fb.set k b) = trailerOk fb := by
  rw [trailerOk, trailerOk, Vector.getElem_set_ne _ _ h9]

/-- The commander byte takes part in no check (R117). -/
theorem flags_set_commander (fb : Frame) (c : Byte) :
    headerOk (fb.set 1 c) = headerOk fb ∧ checksumOk (fb.set 1 c) = checksumOk fb
      ∧ trailerOk (fb.set 1 c) = trailerOk fb :=
  ⟨headerOk_set fb c (by decide) (by decide), checksumOk_set fb c (by decide) (by decide),
    trailerOk_set fb c (by decide) (by decide)⟩

/-! ### DECODE: the fields of its response -/

/-- DECODE computes no AQI (R123). -/
@[simp] theorem decodeOp_category (fb : Frame) : (decodeOp fb).category = .offCharts := by
  unfold decodeOp; split <;> rfl

@[simp] theorem decodeOp_aqiInt (fb : Frame) : (decodeOp fb).aqiInt = 0 := by
  unfold decodeOp; split <;> rfl

@[simp] theorem decodeOp_aqiRem (fb : Frame) : (decodeOp fb).aqiRem = 0 := by
  unfold decodeOp; split <;> rfl

@[simp] theorem decodeOp_aqiDen (fb : Frame) : (decodeOp fb).aqiDen = 0 := by
  unfold decodeOp; split <;> rfl

/-- The reading of a valid frame: byte 1, and three unsigned little-endian values (R114 to R116). -/
theorem decodeOp_reading_of_frameOk {fb : Frame} (h : frameOk fb = true) :
    (decodeOp fb).commander = fb[1]
      ∧ (decodeOp fb).pm25.toNat = fb[2].toNat + 256 * fb[3].toNat
      ∧ (decodeOp fb).pm10.toNat = fb[4].toNat + 256 * fb[5].toNat
      ∧ (decodeOp fb).sensorId.toNat = fb[6].toNat + 256 * fb[7].toNat := by
  have hext (x : BitVec 16) : (x.zeroExtend 32).toNat = x.toNat :=
    BitVec.toNat_setWidth_of_le (by decide)
  rw [decodeOp_valid h]
  exact ⟨rfl, (hext _).trans (pm25Raw_toNat fb), (hext _).trans (pm10Raw_toNat fb), sensorIdField_toNat fb⟩

/-- An invalid frame has no reading (R121). -/
theorem decodeOp_reading_of_not_frameOk {fb : Frame} (h : frameOk fb = false) :
    (decodeOp fb).commander = 0 ∧ (decodeOp fb).pm25 = 0 ∧ (decodeOp fb).pm10 = 0
      ∧ (decodeOp fb).sensorId = 0 := by
  rw [decodeOp_invalid h]
  exact ⟨rfl, rfl, rfl, rfl⟩

/-- The fields that belong to no reading and no flag are 0 in every DECODE response (R31, R123). -/
theorem decode_response_without_aqi (fb : Frame) :
    rspCategory (packResponse (decodeOp fb)) = 0 ∧ rspAqiInt (packResponse (decodeOp fb)) = 0
      ∧ rspAqiRem (packResponse (decodeOp fb)) = 0 ∧ rspAqiDen (packResponse (decodeOp fb)) = 0
      ∧ rspReserved7 (packResponse (decodeOp fb)) = 0
      ∧ rspReserved15 (packResponse (decodeOp fb)) = 0 := by
  simp [Category.code]

/-- STATUS of a DECODE response is OK exactly for a valid frame (R118, R202). -/
theorem decode_rspStatus_eq_zero_iff (fb : Frame) :
    rspStatus (packResponse (decodeOp fb)) = 0x0#4 ↔ frameOk fb = true := by
  rw [rspStatus_packResponse, decodeOp_status]
  constructor
  · intro h
    by_contra hf
    exact statusCode_of_not_frameOk (Bool.eq_false_iff.mpr hf) h
  · intro h
    rw [(flags_of_frameOk h).2]
    rfl

/-! ### DECODE: the statements about its response -/

/-- Settles O13: the response in flight is that of `decodeOp`, whose flags are the three comparisons. -/
theorem decodeReportsEveryFailedCheck : Obligations.DecodeReportsEveryFailedCheck := by
  intro fb s hb
  refine ⟨_, exec_of_idle (.decode fb) hb, rfl, ?_⟩
  simp [commandResponse, frameStatus_code, headerOk_eq, checksumOk_eq, trailerOk_eq]

/-- Settles O14: a frame that passes the three checks has clear flags and its reading. -/
theorem decodeReportsReading : Obligations.DecodeReportsReading := by
  intro fb s hb hhdr hcs htr
  have hok : frameOk fb = true := (frameOk_iff fb).mpr ⟨hhdr, hcs, htr⟩
  obtain ⟨hmask, -⟩ := flags_of_frameOk hok
  obtain ⟨hcmd, h25, h10, hid⟩ := decodeOp_reading_of_frameOk hok
  refine ⟨_, exec_of_idle (.decode fb) hb, rfl, (decode_rspStatus_eq_zero_iff fb).mpr hok, ?_⟩
  exact ⟨(rspFailMask_packResponse _).trans ((decodeOp_failMask fb).trans hmask),
    (rspOp_packResponse _).trans (decodeOp_op fb),
    (rspCommander_packResponse _).trans hcmd,
    (congrArg BitVec.toNat (rspPm25_packResponse _)).trans h25,
    (congrArg BitVec.toNat (rspPm10_packResponse _)).trans h10,
    (congrArg BitVec.toNat (rspSensorId_packResponse _)).trans hid,
    decode_response_without_aqi fb⟩

/-- Settles O15: a failed check makes the frame invalid, and an invalid frame has no reading. -/
theorem invalidFrameHasNoReading : Obligations.InvalidFrameHasNoReading := by
  intro fb s hb hfail
  have hbad : frameOk fb = false := (frameOk_eq_false_iff fb).mpr hfail
  obtain ⟨hcmd, h25, h10, hid⟩ := decodeOp_reading_of_not_frameOk hbad
  refine ⟨_, exec_of_idle (.decode fb) hb, rfl, ?_, (rspCommander_packResponse _).trans hcmd,
    (rspPm25_packResponse _).trans h25, (rspPm10_packResponse _).trans h10,
    (rspSensorId_packResponse _).trans hid, decode_response_without_aqi fb⟩
  exact fun hs => absurd ((decode_rspStatus_eq_zero_iff fb).mp hs) (by simp [hbad])

/-- Settles O16: no check looks at byte 1, so both frames have the same flags, and a valid one reports its byte 1. -/
theorem commanderByteNotValidated : Obligations.CommanderByteNotValidated := by
  intro fb c s hb
  obtain ⟨hhdr, hcs, htr⟩ := flags_set_commander fb c
  refine ⟨_, _, exec_of_idle (.decode fb) hb, exec_of_idle (.decode (fb.set 1 c)) hb, ?_, ?_, fun hs => ?_⟩
  · simp [commandResponse, hhdr, hcs, htr]
  · simp [commandResponse, hhdr, hcs, htr]
  · have hok : frameOk (fb.set 1 c) = true := by
      rw [frameOk, hhdr, hcs, htr]
      exact (decode_rspStatus_eq_zero_iff fb).mp hs
    obtain ⟨hcmd, -⟩ := decodeOp_reading_of_frameOk hok
    calc rspCommander (packResponse (decodeOp (fb.set 1 c))) = (fb.set 1 c)[1] := by
          rw [rspCommander_packResponse, hcmd]
      _ = c := Vector.getElem_set_self _

end Sys2Proof.Machine

namespace Sys2Proof.Machine

open Sys2Proof.Safety

/-! ### CONVERT: bracket selection -/

/-- The ceilings CT are strictly ascending (R140). -/
theorem bptRom_ascending : bptRom.Pairwise (fun a b => a.ceiling < b.ceiling) := by decide

/-- A row's category code is its index (R140). -/
theorem bptRom_category_code : ∀ i (hi : i < bptRom.length), bptRom[i].category.code.toNat = i := by decide

/-- Over ascending ceilings, CT[k] ≤ p < CT[k+1] selects row k+1 (R142). -/
theorem selectRow_of_bracket {bpt : List BptRow} (hasc : bpt.Pairwise (fun a b => a.ceiling < b.ceiling))
    {p : Int} {k : Nat} (hk : k + 1 < bpt.length) (hl : bpt[k].ceiling ≤ p) (hh : p < bpt[k + 1].ceiling) :
    selectRow bpt p = some (k + 1) := by
  refine List.findIdx?_eq_some_iff_getElem.mpr ⟨hk, decide_eq_true hh, fun j hj => ?_⟩
  have hle : bpt[j].ceiling ≤ bpt[k].ceiling := by
    rcases Nat.lt_succ_iff_lt_or_eq.mp hj with hlt | rfl
    · exact (List.pairwise_iff_getElem.mp hasc j k _ _ hlt).le
    · exact le_rfl
  simpa using hle.trans hl

/-- In the bracket of rows k and k+1, Interp interpolates between those two rows (R144). -/
theorem interp_bptRom_of_bracket {p : Int} {k : Nat} (hk : k + 1 < bptRom.length)
    (hl : bptRom[k].ceiling ≤ p) (hh : p < bptRom[k + 1].ceiling) :
    interp bptRom p = interpBetween bptRom[k] bptRom[k + 1] p := by
  have hk' : k < bptRom.length := by omega
  simp only [interp, selectRow_of_bracket bptRom_ascending hk hl hh, List.getElem?_eq_getElem hk,
    List.getElem?_eq_getElem hk']

/-- Outside the table Interp is the default (R143). -/
theorem interp_bptRom_of_outside {p : Int} (h : p < 0 ∨ 5004 ≤ p) : interp bptRom p = defaultAqi := by
  rcases h with h | h
  · rw [interp_bptRom, if_pos h]
  · simp (disch := omega) only [interp_bptRom, if_neg]

/-! ### CONVERT: the AQI fields of its response -/

/-- The AQI fields hold a value in range whole (R145). -/
theorem holdsAqi_withAqi (r : Response) {a : AqiValue} (h : AqiInRange a) :
    HoldsAqi (packResponse (withAqi r a)) a.int a.rem a.den a.category.code.toNat := by
  obtain ⟨hint, hint', hrem, hrem', hden⟩ := h
  have hden' : 0 ≤ a.den ∧ a.den ≤ 2500 := by
    simp only [List.mem_cons, List.not_mem_nil, or_false] at hden
    omega
  simp only [HoldsAqi, rspAqiInt_packResponse, rspAqiRem_packResponse, rspAqiDen_packResponse,
    rspCategory_packResponse, withAqi_aqiInt, withAqi_aqiRem, withAqi_aqiDen, withAqi_category]
  exact ⟨ofInt16_toNat hint (by omega), ofInt16_toNat hrem (by omega), ofInt16_toNat hden'.1 (by omega), trivial⟩

/-- A response with the AQI of `p` holds it by the formula of the bracket of rows k and k+1 (R144, R146). -/
theorem holdsBracket_withAqi (r : Response) (p : Int) (k : Nat) (hk : k + 1 < bptRom.length) :
    HoldsBracket (packResponse (withAqi r (interp bptRom p))) p (k + 1)
      bptRom[k].ceiling bptRom[k + 1].ceiling bptRom[k].aqi bptRom[k + 1].aqi := by
  intro hl hh
  have h := holdsAqi_withAqi r (interp_bptRom_inRange p)
  rw [interp_bptRom_of_bracket hk hl hh] at h ⊢
  simpa only [interpBetween, bptRom_category_code (k + 1) hk] using h

/-- A response with the AQI of `p` holds Interp(p), in every bracket and outside the table (R143, R144). -/
theorem holdsInterp_withAqi (r : Response) (p : Int) :
    HoldsInterp (packResponse (withAqi r (interp bptRom p))) p := by
  have hb := holdsBracket_withAqi r p
  refine ⟨hb 0 (by decide), hb 1 (by decide), hb 2 (by decide), hb 3 (by decide), hb 4 (by decide),
    hb 5 (by decide), fun hout => ?_⟩
  have h := holdsAqi_withAqi r (interp_bptRom_inRange p)
  rw [interp_bptRom_of_outside hout] at h ⊢
  exact h

/-- Settles O20: the response in flight is that of `convertOp`, which echoes the operands and carries Interp of the
signed PM25_T. -/
theorem convertComputesAqi : Obligations.ConvertComputesAqi := by
  intro pm25 pm10 s hb hbpt
  have haqi : HoldsInterp (packResponse (convertOp bptRom pm25 pm10)) pm25.toInt := holdsInterp_withAqi _ _
  refine ⟨_, exec_of_idle (.convert pm25 pm10) hb, rfl, ?_⟩
  simpa [commandResponse, hbpt, convertOp, zeroResponse, Status.code] using haqi

end Sys2Proof.Machine

namespace Sys2Proof.Machine

/-! ### DECODE_CONVERT -/

/-- For an invalid frame DECODE_CONVERT answers the DECODE response with OP 3 (R181). -/
theorem decodeConvertOp_invalid (bpt : List BptRow) {fb : Frame} (h : frameOk fb = false) :
    decodeConvertOp bpt fb = { decodeOp fb with op := 0x3 } := by
  rw [decodeConvertOp_eq, if_neg (Bool.eq_false_iff.mp h)]

/-- Settles O23: the response is DECODE's but for OP, and DECODE of an invalid frame has no reading and no AQI. -/
theorem fusedCommandRejectsInvalidFrame : Obligations.FusedCommandRejectsInvalidFrame := by
  intro fb s hb hfail
  have hbad : frameOk fb = false := (frameOk_eq_false_iff fb).mpr hfail
  have hstatus : rspStatus (packResponse (decodeOp fb)) ≠ 0x0#4 :=
    mt (decode_rspStatus_eq_zero_iff fb).mp (Bool.eq_false_iff.mp hbad)
  obtain ⟨hcmd, h25, h10, hid⟩ := decodeOp_reading_of_not_frameOk hbad
  refine ⟨_, _, exec_of_idle (.decodeConvert fb) hb, exec_of_idle (.decode fb) hb, rfl, hstatus, ?_⟩
  simp [commandResponse, decodeConvertOp_invalid s.bpt hbad, hcmd, h25, h10, hid, Category.code]

end Sys2Proof.Machine

namespace Sys2Proof.Machine

open Sys2Proof.Safety

/-! ### RESET -/

/-- RESET takes precedence over every other step, in every state (R230, R231). -/
theorem step_of_reset {s : State} (h : (inputPins s).rst = true) :
    step s = .next (resetBlock (advanceHost s)) :=
  edge_of_reset h

/-- The block is not ready while `rst` is high (R23). -/
theorem cmdReady_of_rst {rst : Bool} (s : State) (h : rst = true) : cmdReady rst s = false := by
  simp [cmdReady, h]

/-- No RETIRE is enabled while `rst` is high (R231). -/
theorem retireEnabled_of_rst {p : Pins} (s : State) (h : p.rst = true) : retireEnabled p s = false := by
  simp [retireEnabled, h]

/-- RESET leaves the block IDLE (R230). -/
theorem phase_resetBlock (s : State) : phase (resetBlock s) = some .idle :=
  (phase_idle_iff _).mpr ⟨resetBlock_busy s, resetBlock_rspValid s⟩

/-- Settles O31: `rst` disables both handshakes, and the next state is that of `resetBlock`. -/
theorem resetStep : Obligations.ResetStep := by
  intro s hr
  refine ⟨cmdReady_of_rst s hr, acceptEnabled_eq_false (.inl hr), retireEnabled_of_rst s hr, _, step_of_reset hr, ?_⟩
  exact ⟨resetBlock_busy _, resetBlock_rspValid _, resetBlock_rsp _, resetBlock_bpt _, resetBlock_responses _,
    phase_resetBlock _, (cmdReady_iff _ _).mpr ⟨rfl, resetBlock_busy _⟩⟩

end Sys2Proof.Machine

namespace Sys2Proof

open Sys2Proof.Machine

/-! ### Encoding: the round trip of words and commands -/

/-- Settles O2: the fields of an encoded word are those it was encoded from, and a frame is the one of its payload. -/
theorem decodeOfEncodeIsIdentity : Obligations.DecodeOfEncodeIsIdentity := by
  intro i
  cases i with
  | decode fb => simp [encode, decode, frameField]
  | convert pm25 pm10 => simp [encode, decode]
  | decodeConvert fb => simp [encode, decode, frameField]

/-- The low 16 bits of a word are RSVD_A above OP (R80). -/
theorem rsvdA_append_opField (w : CmdWord) : rsvdA w ++ opField w = w.extractLsb' 0 16 :=
  BitVec.extractLsb'_append_extractLsb'_eq_extractLsb' rfl

/-- A word whose RSVD_A is 0 is the format-F word of its OP and its frame (R81). -/
theorem encodeF_fields {w : CmdWord} (ha : rsvdA w = 0) : encodeF (opField w) (frameField w) = w := by
  rw [frameField, ← payload_append_eq_encodeF, show 0#12 = rsvdA w from ha.symm, rsvdA_append_opField]
  exact (BitVec.extractLsb'_append_extractLsb'_eq_extractLsb' rfl).trans BitVec.extractLsb'_eq_self

/-- A word whose reserved fields are 0 is the format-V word of its OP and its operands (R81). -/
theorem encodeV_fields {w : CmdWord} (ha : rsvdA w = 0) (hb : rsvdB w = 0) :
    encodeV (opField w) (pm25Field w) (pm10Field w) = w := by
  rw [encodeV, show 0#12 = rsvdA w from ha.symm, show 0#16 = rsvdB w from hb.symm]
  calc rsvdB w ++ pm10Field w ++ pm25Field w ++ rsvdA w ++ opField w
    _ = w.extractLsb' 48 48 ++ pm25Field w ++ rsvdA w ++ opField w :=
        congrArg (· ++ pm25Field w ++ rsvdA w ++ opField w)
          (BitVec.extractLsb'_append_extractLsb'_eq_extractLsb' rfl)
    _ = w.extractLsb' 16 80 ++ rsvdA w ++ opField w :=
        congrArg (· ++ rsvdA w ++ opField w) (BitVec.extractLsb'_append_extractLsb'_eq_extractLsb' rfl)
    _ = w.extractLsb' 4 92 ++ opField w :=
        congrArg (· ++ opField w) (BitVec.extractLsb'_append_extractLsb'_eq_extractLsb' rfl)
    _ = w.extractLsb' 0 96 := BitVec.extractLsb'_append_extractLsb'_eq_extractLsb' rfl
    _ = w := BitVec.extractLsb'_eq_self

/-- Settles O3: the decoder accepts a word only with its reserved fields 0, and then the word is that of its fields. -/
theorem encodeOfDecodeIsIdentity : Obligations.EncodeOfDecodeIsIdentity := by
  intro w i h
  rcases decode_ok_cases h with ⟨ho, ha, rfl⟩ | ⟨ho, ha, hb, rfl⟩ | ⟨ho, ha, rfl⟩
  · rw [encode, ← ho, encodeF_fields ha]
  · rw [encode, ← ho, encodeV_fields ha hb]
  · rw [encode, ← ho, encodeF_fields ha]

/-- Settles O5: the decoder answers CONVERT only with the two operand fields of the word. -/
theorem convertOperandBits : Obligations.ConvertOperandBits := by
  intro w pm25 pm10 h
  rcases decode_ok_cases h with ⟨-, -, hi⟩ | ⟨-, -, -, hi⟩ | ⟨-, -, hi⟩ <;> cases hi
  exact ⟨rfl, rfl⟩

/-- Settles O6: seven closed words, evaluated. -/
theorem specExampleWordsDecode : Obligations.SpecExampleWordsDecode := by
  unfold Obligations.SpecExampleWordsDecode
  decide

/-! ### The assembler -/

/-- A CONVERT operand in range assembles to its two's complement value (R96). -/
theorem asmTenths_of_inRange {x : Int} (hl : -2 ^ 31 ≤ x) (hh : x < 2 ^ 31) :
    asmTenths x = .ok (BitVec.ofInt 32 x) :=
  if_pos ⟨hl, Int.le_sub_one_of_lt hh⟩

/-- A CONVERT operand out of range is refused (R96). -/
theorem asmTenths_of_outOfRange {x : Int} (h : x < -2 ^ 31 ∨ 2 ^ 31 ≤ x) :
    asmTenths x = .error .operandRange :=
  if_neg (by omega)

/-- A CONVERT with a refused operand is refused (R96). -/
theorem asmConvert_of_outOfRange {x y : Int} (h : (x < -2 ^ 31 ∨ 2 ^ 31 ≤ x) ∨ (y < -2 ^ 31 ∨ 2 ^ 31 ≤ y)) :
    asmConvert x y = .error .operandRange := by
  unfold asmConvert
  rcases h with hx | hy
  · rw [asmTenths_of_outOfRange hx]
  · rw [asmTenths_of_outOfRange hy]
    cases asmTenths x <;> rfl

/-- A frame is written with exactly ten bytes (R96). -/
theorem asmFrame_of_length_ne {bs : List Byte} (h : bs.length ≠ 10) : asmFrame bs = .error .frameLength := by
  unfold asmFrame
  split
  · exact absurd rfl h
  · rfl

/-- A frame byte is written with exactly two digits (R96). -/
theorem readByte_of_length_ne {cs : List Char} (h : cs.length ≠ 2) : readByte cs = .error .byteDigits := by
  unfold readByte
  split
  · exact absurd rfl h
  · rfl

/-- Settles O48: each operand reader refuses, and the send statement passes its error on. -/
theorem assemblerRefusesBadOperands : Obligations.AssemblerRefusesBadOperands := by
  refine ⟨fun bs h => ?_, fun cs h => readByte_of_length_ne h, fun x y h => ?_, fun ds h => if_neg h⟩
  · simp [sendWord, asmFrame_of_length_ne h, Except.map]
  · exact asmConvert_of_outOfRange (or_assoc.mpr h)

/-- Settles O49: both operands assemble, the word decodes to them, and 32 bits hold the range whole. -/
theorem assembledConvertDecodesToItself : Obligations.AssembledConvertDecodesToItself := by
  intro x y hx hx' hy hy'
  refine ⟨_, BitVec.ofInt 32 x, BitVec.ofInt 32 y, ?_, decodeOfEncodeIsIdentity _,
    BitVec.toInt_ofInt_eq_self (by decide) hx hx', BitVec.toInt_ofInt_eq_self (by decide) hy hy'⟩
  simp only [sendWord, asmConvert, asmTenths_of_inRange hx hx', asmTenths_of_inRange hy hy']

end Sys2Proof

namespace Sys2Proof.Machine

open Sys2Proof.Safety

/-! ### The step and the dispatch -/

/-- The pins of the host's current statement (R95). -/
theorem inputPins_cons {s : State} {stmt : HostStmt} {rest : List HostStmt} (h : s.hostProgram = stmt :: rest) :
    inputPins s = stmtPins stmt := by
  simp [inputPins, h]

/-- Every statement current at an ACCEPT edge is done by it (R95). -/
theorem hostAfter_of_accept {s : State} (h : acceptEnabled (inputPins s) s = true) :
    hostAfter s = s.hostProgram.tail := by
  obtain ⟨-, -, hv⟩ := (acceptEnabled_iff _ _).mp h
  cases hp : s.hostProgram with
  | nil => simp [hostAfter, hp]
  | cons stmt rest =>
    rw [inputPins_cons hp] at h hv
    cases stmt with
    | send w => simp [hostAfter, hp, stmtDone, h]
    | recv => cases hv
    | reset => cases hv
    | drive p => simp [hostAfter, hp, stmtDone]

/-- The step at the ACCEPT edge of a legal word is `exec` of its command (R37, R90). -/
theorem step_of_accept_legal {s : State} {i : Instr} (ha : acceptEnabled (inputPins s) s = true)
    (hd : decode (inputPins s).cmdWord = .ok i) : step s = exec i (advanceHost s) := by
  rw [step, edge_of_accept ha, acceptWord, hd]

/-- Settles O7: the edge is an ACCEPT, by which the host's current statement is done. -/
theorem stepRunsDecodedCommand : Obligations.StepRunsDecodedCommand := by
  intro s i hr hv hb hd
  have ha : acceptEnabled (inputPins s) s = true := (acceptEnabled_iff _ _).mpr ⟨hr, hb, hv⟩
  exact ⟨step_of_accept_legal ha hd, by rw [advanceHost, hostAfter_of_accept ha]⟩

/-- Settles O8: the placed word is offered to an IDLE block, and its send is done by that edge. -/
theorem placedWordRunsNext : Obligations.PlacedWordRunsNext := by
  intro s nbits w i h
  exact step_of_accept_legal (s := s.withFetchWord nbits w) rfl (decodeTableWord_eq_some.mp h)

/-- Settles O11: a command either waits or writes INFLIGHT, BUSY and the edge count. -/
theorem commandsChangeOnlyBusyAndInflight : Obligations.CommandsChangeOnlyBusyAndInflight := by
  intro i s t h
  rw [exec_eq_accept] at h
  rcases accept_next h with ⟨-, rfl⟩ | ⟨-, rfl⟩ <;> exact ⟨rfl, rfl, rfl, rfl, rfl, rfl⟩

/-- Settles O12: every command is an ACCEPT, and ACCEPT waits on a busy block. -/
theorem busyBlockMakesCommandsWait : Obligations.BusyBlockMakesCommandsWait :=
  fun i s hb => (exec_eq_accept i s).trans (accept_of_busy _ hb)

/-- Settles O30: the fields of `State.reset`, and its table row by row. -/
theorem resetStateValues : Obligations.ResetStateValues :=
  ⟨rfl, rfl, rfl, rfl, rfl⟩

/-- Settles O46: the list is unchanged or differs in entry `k` alone, by that block's own edge. -/
theorem instancesShareNothing : Obligations.InstancesShareNothing := by
  intro k blocks after h
  rcases stepInstance_next h with ⟨hk, rfl⟩ | ⟨b, t, hk, ht, rfl⟩
  · exact ⟨rfl, fun _ _ => rfl, fun b hb => absurd (hk.symm.trans hb) nofun⟩
  · refine ⟨List.length_set, fun j hj => List.getElem?_set_ne hj.symm, fun b' hb' => ?_⟩
    obtain rfl : b = b' := Option.some.inj (hk.symm.trans hb')
    obtain ⟨hlt, -⟩ := List.getElem?_eq_some_iff.mp hk
    exact ⟨t, ht, List.getElem?_set_self hlt⟩

/-! ### The invariant -/

/-- Settles O39: the block is IDLE, so nothing is presented and nothing in flight. -/
theorem resetStateMeetsInvariant : Obligations.ResetStateMeetsInvariant where
  bpt := rfl
  validBusy := nofun
  rsp := .inl rfl
  presented := nofun
  inflight := nofun
  elapsed := nofun

/-- RESET keeps the invariant: afterwards the block is IDLE with RSP 0 (R230). -/
theorem inv_resetBlock {s : State} (h : Inv s) : Inv (resetBlock s) where
  bpt := h.bpt
  validBusy := nofun
  rsp := .inl rfl
  presented := nofun
  inflight := nofun
  elapsed := nofun

/-- The invariant says nothing of the host. -/
theorem inv_advanceHost {s : State} (h : Inv s) : Inv (advanceHost s) where
  bpt := h.bpt
  validBusy := h.validBusy
  rsp := h.rsp
  presented := h.presented
  inflight := h.inflight
  elapsed := h.elapsed

/-- ACCEPT of a word keeps the invariant: Exec of it is in flight, at the first of LATENCY edges (R37). -/
theorem inv_accept {s : State} (h : Inv s) (w : CmdWord) :
    Inv { s with inflight := execWord s.bpt w, busy := true, elapsed := 0 } where
  bpt := h.bpt
  validBusy := fun _ => rfl
  rsp := h.rsp
  presented := h.presented
  inflight := fun _ => ⟨w, by rw [← h.bpt]⟩
  elapsed := fun _ => Nat.succ_pos _

/-- RETIRE keeps the invariant: the block is IDLE and RSP is held (R39). -/
theorem inv_retire {s : State} (h : Inv s) :
    Inv { s with rspValid := false, busy := false, responses := s.responses ++ [s.rsp] } where
  bpt := h.bpt
  validBusy := nofun
  rsp := h.rsp
  presented := nofun
  inflight := nofun
  elapsed := nofun

/-- PRESENT keeps the invariant: RSP is what was in flight (R38). -/
theorem inv_present {s : State} (h : Inv s) (hc : computing s = true) :
    Inv (forgetInflight { s with rsp := s.inflight, rspValid := true }) := by
  have hne : computing (forgetInflight { s with rsp := s.inflight, rspValid := true }) ≠ true :=
    fun hc' => absurd ((computing_iff _).mp hc').2 nofun
  exact {
    bpt := h.bpt
    validBusy := fun _ => ((computing_iff s).mp hc).1
    rsp := .inr (h.inflight hc)
    presented := fun _ => h.inflight hc
    inflight := fun hc' => absurd hc' hne
    elapsed := fun hc' => absurd hc' hne }

/-- An edge that lets PRESENT wait keeps the invariant while it is not overdue (R38). -/
theorem inv_count {s : State} (h : Inv s) (hl : s.elapsed + 1 < Config.latency) :
    Inv { s with elapsed := s.elapsed + 1 } where
  bpt := h.bpt
  validBusy := h.validBusy
  rsp := h.rsp
  presented := h.presented
  inflight := h.inflight
  elapsed := fun _ => hl

/-- Settles O40: each of the things an edge can do keeps it, and the host plays no part in it. -/
theorem everyStepKeepsInvariant : Obligations.EveryStepKeepsInvariant := by
  intro s t h hs
  have ha := inv_advanceHost h
  rcases edge_cases hs with ⟨-, rfl⟩ | ⟨-, rfl⟩ | ⟨-, -, rfl⟩ | ⟨-, hc, ⟨-, -, rfl⟩ | ⟨hl, rfl⟩⟩ |
    ⟨-, -, -, -, rfl⟩
  · exact inv_resetBlock ha
  · exact inv_accept ha _
  · exact inv_retire ha
  · exact inv_present ha hc
  · exact inv_count ha hl
  · exact ha

/-- A run from a state that meets the invariant ends in one. -/
theorem run_keeps_inv {s t : State} {k : Nat} (h : Inv s) (hr : Host.Core.run core k s = .next t) : Inv t := by
  induction k generalizing s with
  | zero => cases Host.Outcome.next.inj hr; exact h
  | succ k ih =>
    cases hs : step s with
    | next u => exact ih (everyStepKeepsInvariant s u h hs) (run_succ k hs ▸ hr)
    | fault f => exact absurd (run_succ_fault k hs ▸ hr) nofun
    | refused r => exact absurd (run_succ_refused k hs ▸ hr) nofun

/-! ### RETIRE and the waits -/

/-- The step at a RETIRE edge of a busy block, for a response that is no fault (R39). -/
theorem step_of_retire {s : State} (hb : s.busy = true) (hre : retireEnabled (inputPins s) s = true)
    (hf : responseFault s.rsp = none) :
    step s = .next { advanceHost s with
      rspValid := false, busy := false, responses := s.responses ++ [s.rsp] } := by
  rw [step, edge_of_retire (acceptEnabled_eq_false (.inr (.inl hb))) hre, retire_of_noFault (s := advanceHost s) hf]
  rfl

/-- Under the invariant a RETIRE edge is a RETIRE of a busy block (R29, R39). -/
theorem step_retire_of_inv {s : State} (h : Inv s) (hre : retireEnabled (inputPins s) s = true) :
    step s = .next { advanceHost s with
      rspValid := false, busy := false, responses := s.responses ++ [s.rsp] } := by
  obtain ⟨-, hv, -⟩ := (retireEnabled_iff _ _).mp hre
  exact step_of_retire (h.validBusy hv) hre (responseFault_presented h hv)

/-- RSP changes only at a RESET and at a PRESENT (R30, R38, R230). -/
theorem step_rsp_cases {s t : State} (h : step s = .next t) :
    t.rsp = s.rsp
      ∨ ((inputPins s).rst = true ∧ t.rsp = 0 ∧ t.rspValid = false)
      ∨ ((inputPins s).rst = false ∧ s.busy = true ∧ s.rspValid = false ∧ t.rspValid = true
          ∧ t.rsp = s.inflight) := by
  rcases edge_cases h with ⟨hr, rfl⟩ | ⟨-, rfl⟩ | ⟨-, -, rfl⟩ | ⟨hr, hc, ⟨-, -, rfl⟩ | ⟨-, rfl⟩⟩ |
    ⟨-, -, -, -, rfl⟩
  · exact .inr (.inl ⟨hr, rfl, rfl⟩)
  · exact .inl rfl
  · exact .inl rfl
  · obtain ⟨hb, hv⟩ := (computing_iff s).mp hc
    exact .inr (.inr ⟨hr, hb, hv, rfl, rfl⟩)
  · exact .inl rfl
  · exact .inl rfl

/-- Settles O33: under the invariant the edge is a RETIRE, and RSP by what a step can do to it. -/
theorem retireStep : Obligations.RetireStep := by
  refine ⟨fun s h hr hv hy => ?_, fun s t => step_rsp_cases⟩
  have hb := h.validBusy hv
  exact ⟨acceptEnabled_eq_false (.inr (.inl hb)), by simp [cmdReady, hb], _,
    step_retire_of_inv h ((retireEnabled_iff _ _).mpr ⟨hr, hv, hy⟩), rfl, rfl, rfl, rfl, rfl⟩

/-- Settles O34: in either wait no ACCEPT, no RETIRE and no PRESENT is enabled. -/
theorem waitsHoldTheState : Obligations.WaitsHoldTheState := by
  intro s hr hw
  rcases hw with ⟨hp, hc⟩ | ⟨hp, hy⟩
  · obtain ⟨hb, hv⟩ := (phase_idle_iff s).mp hp
    exact edge_of_wait hr (acceptEnabled_eq_false (.inr (.inr hc))) (by simp [retireEnabled, hv])
      (by simp [computing, hb])
  · obtain ⟨hb, hv⟩ := (phase_presenting_iff s).mp hp
    exact edge_of_wait hr (acceptEnabled_eq_false (.inr (.inl hb))) (by simp [retireEnabled, hy])
      (by simp [computing, hv])

/-- A send stays current while the block is busy (R95, R236). -/
theorem hostAfter_send_of_busy {s : State} {w : CmdWord} {rest : List HostStmt}
    (h : s.hostProgram = .send w :: rest) (hb : s.busy = true) : hostAfter s = s.hostProgram := by
  simp [hostAfter, h, stmtDone, acceptEnabled_eq_false (.inr (.inl hb))]

/-- A step that changes nothing does so for ever. -/
theorem run_of_step_self {s : State} (h : step s = .next s) (k : Nat) : Host.Core.run core k s = .next s := by
  induction k with
  | zero => rfl
  | succ k ih => rw [run_succ k h, ih]

/-- Settles O35: a send drives `rst` and `rsp_ready` low, so each edge is a wait that leaves the send current. -/
theorem secondSendWaitsForEver : Obligations.SecondSendWaitsForEver := by
  intro s w rest k hp hprog
  obtain ⟨hb, -⟩ := (phase_presenting_iff s).mp hp
  have hpins : inputPins s = stmtPins (.send w) := inputPins_cons hprog
  have hstep := waitsHoldTheState s (by rw [hpins]; rfl) (.inr ⟨hp, by rw [hpins]; rfl⟩)
  rw [hostAfter_send_of_busy hprog hb] at hstep
  exact run_of_step_self hstep k

/-! ### What no step changes, and the host's records -/

/-- Settles O36: none of the things an edge can do writes BPT. -/
theorem breakpointTableNeverChanges : Obligations.BreakpointTableNeverChanges := by
  intro s t h
  rcases edge_cases h with ⟨-, rfl⟩ | ⟨-, rfl⟩ | ⟨-, -, rfl⟩ | ⟨-, -, ⟨-, -, rfl⟩ | ⟨-, rfl⟩⟩ |
    ⟨-, -, -, -, rfl⟩ <;> rfl

/-- After a step the host's statements are those left after the edge (R95). -/
theorem step_hostProgram {s t : State} (h : step s = .next t) : t.hostProgram = hostAfter s := by
  rcases edge_cases h with ⟨-, rfl⟩ | ⟨-, rfl⟩ | ⟨-, -, rfl⟩ | ⟨-, -, ⟨-, -, rfl⟩ | ⟨-, rfl⟩⟩ |
    ⟨-, -, -, -, rfl⟩ <;> rfl

/-- The received responses grow at a RETIRE and at no other edge (R39, R43). -/
theorem step_responses_cases {s t : State} (h : step s = .next t) :
    t.responses = s.responses
      ∨ (retireEnabled (inputPins s) s = true ∧ t.responses = s.responses ++ [s.rsp]
          ∧ t.busy = false ∧ t.rspValid = false) := by
  rcases edge_cases h with ⟨-, rfl⟩ | ⟨-, rfl⟩ | ⟨hre, -, rfl⟩ | ⟨-, -, ⟨-, -, rfl⟩ | ⟨-, rfl⟩⟩ |
    ⟨-, -, -, -, rfl⟩
  · exact .inl rfl
  · exact .inl rfl
  · exact .inr ⟨hre, rfl, rfl, rfl⟩
  · exact .inl rfl
  · exact .inl rfl
  · exact .inl rfl

/-- Settles O37: the two lists by what a step can do to them, and under the invariant the edge is a RETIRE. -/
theorem hostRecordsFollowHandshakes : Obligations.HostRecordsFollowHandshakes :=
  ⟨fun _ _ h => ⟨step_hostProgram h, step_responses_cases h⟩,
    fun _ h hr hv hy => ⟨_, step_retire_of_inv h ((retireEnabled_iff _ _).mpr ⟨hr, hv, hy⟩), rfl⟩⟩

/-! ### Faults -/

/-- A reserved STATUS makes a response a fault that names it (U3, U4). -/
theorem responseFault_of_reserved {v : RspWord} (hl : 4 ≤ (rspStatus v).toNat) (hh : (rspStatus v).toNat ≤ 14) :
    responseFault v = some (.reservedStatus (rspStatus v)) := by
  have hne : rspStatus v ≠ 0xF#4 := fun h => by rw [h] at hh; exact absurd hh (by decide)
  have hlt : ¬ (rspStatus v).toNat ≤ 3 := by omega
  refine if_pos ?_
  simp [statusProduced, hne, hlt]

/-- Settles O38: the edge is the PRESENT of a response that is a fault. -/
theorem reservedStatusFaultsAtPresent : Obligations.ReservedStatusFaultsAtPresent := by
  intro s hr hb hv hl h4 h14
  rw [step, edge_of_computing hr ((computing_iff s).mpr ⟨hb, hv⟩), compute, if_pos (by simpa using hl), present,
    advanceHost_inflight, responseFault_of_reserved h4 h14]

/-- Settles O41: each of the edges answers a next state, PRESENT and RETIRE because no response is a fault. -/
theorem noStepStops : Obligations.NoStepStops := by
  intro s h
  by_cases hr : (inputPins s).rst = true
  · exact ⟨_, step_of_reset hr⟩
  rw [Bool.not_eq_true] at hr
  by_cases ha : acceptEnabled (inputPins s) s = true
  · exact ⟨_, step_of_accept ha⟩
  by_cases hre : retireEnabled (inputPins s) s = true
  · exact ⟨_, step_retire_of_inv h hre⟩
  by_cases hc : computing s = true
  · by_cases hl : Config.latency ≤ s.elapsed + 1
    · exact ⟨_, step_of_computing_due hr hc hl (responseFault_inflight h hc)⟩
    · exact ⟨_, step_of_computing_early hr hc (by omega)⟩
  · exact ⟨_, edge_of_wait hr (Bool.eq_false_iff.mpr ha) (Bool.eq_false_iff.mpr hre) (Bool.eq_false_iff.mpr hc)⟩

/-! ### Calls -/

/-- A block in COMPUTING accepts nothing (R37). -/
theorem acceptEnabled_of_computing {p : Pins} {s : State} (h : computing s = true) : acceptEnabled p s = false :=
  acceptEnabled_eq_false (.inr (.inl ((computing_iff s).mp h).1))

/-- Settles O45: up to LATENCY edges after the ACCEPT its command is in flight, and one edge later it is presented;
the block is busy all that time. -/
theorem acceptsAreLatencyPlusTwoApart : Obligations.AcceptsAreLatencyPlusTwoApart := by
  intro s k hi hn ha h0 hk
  obtain ⟨k, rfl⟩ : ∃ j, k = j + 1 := ⟨k - 1, by omega⟩
  rcases Nat.lt_or_eq_of_le (show k ≤ Config.latency by omega) with hlt | rfl
  · obtain ⟨t, hrun, ht⟩ := run_accept_inFlight hi hn ha hlt
    exact ⟨t, hrun, acceptEnabled_of_computing ht.computing⟩
  · obtain ⟨t, hrun, hp, -⟩ := run_accept_presents hi hn ha
    exact ⟨t, hrun, acceptEnabled_eq_false (.inr (.inl ((phase_presenting_iff t).mp hp).1))⟩

/-- The host has called the command whose response is `v` and stands at the RECV of that call, with `rest` to come and
`rs` received; the ACCEPT was `k` edges ago and PRESENT is still to come. -/
structure Awaiting (k : Nat) (v : RspWord) (rest : List HostStmt) (rs : List RspWord) (t : State) : Prop where
  computing : computing t = true
  elapsed : t.elapsed = k
  inflight : t.inflight = v
  hostProgram : t.hostProgram = .recv :: rest
  responses : t.responses = rs

/-- A RECV stays current until RSP_VALID (R95). -/
theorem hostAfter_recv_of_invalid {s : State} {rest : List HostStmt} (h : s.hostProgram = .recv :: rest)
    (hv : s.rspValid = false) : hostAfter s = .recv :: rest := by
  simp [hostAfter, h, stmtDone, retireEnabled, hv]

/-- A RECV is done at the edge with RSP_VALID 1 (R95). -/
theorem hostAfter_recv_of_valid {s : State} {rest : List HostStmt} (h : s.hostProgram = .recv :: rest)
    (hv : s.rspValid = true) : hostAfter s = rest := by
  simp [hostAfter, h, stmtDone, retireEnabled, stmtPins, hv]

/-- A host at a RECV does not reset. -/
theorem rst_of_recv {s : State} {rest : List HostStmt} (h : s.hostProgram = .recv :: rest) :
    (inputPins s).rst = false := by
  rw [inputPins_cons h]; rfl

/-- In IDLE a send is accepted (R37, R95). -/
theorem acceptEnabled_of_send {s : State} {w : CmdWord} {rest : List HostStmt}
    (h : s.hostProgram = .send w :: rest) (hp : phase s = some .idle) :
    acceptEnabled (inputPins s) s = true := by
  obtain ⟨hb, -⟩ := (phase_idle_iff s).mp hp
  rw [inputPins_cons h]
  exact (acceptEnabled_iff _ _).mpr ⟨rfl, hb, rfl⟩

/-- The first edge of a call is the ACCEPT of its word (R99). -/
theorem step_call_awaiting {s : State} {w : CmdWord} {rest : List HostStmt} (hi : Inv s)
    (hp : phase s = some .idle) (hprog : s.hostProgram = .send w :: .recv :: rest) :
    ∃ t, step s = .next t ∧ Awaiting 0 (execWord bptRom w) rest s.responses t := by
  obtain ⟨-, hv⟩ := (phase_idle_iff s).mp hp
  have ha := acceptEnabled_of_send hprog hp
  refine ⟨_, step_of_accept ha, (computing_iff _).mpr ⟨rfl, hv⟩, rfl, ?_, ?_, rfl⟩
  · rw [inputPins_cons hprog, hi.bpt]; rfl
  · exact (hostAfter_of_accept ha).trans (by rw [hprog]; rfl)

/-- An edge before the LATENCY-th leaves the host waiting (R38, R95). -/
theorem step_awaiting {k : Nat} {v : RspWord} {rest : List HostStmt} {rs : List RspWord} {t : State}
    (h : Awaiting k v rest rs t) (hk : k + 1 < Config.latency) :
    ∃ u, step t = .next u ∧ Awaiting (k + 1) v rest rs u := by
  obtain ⟨-, hv⟩ := (computing_iff t).mp h.computing
  refine ⟨_, step_of_computing_early (rst_of_recv h.hostProgram) h.computing (h.elapsed ▸ hk), h.computing, ?_,
    h.inflight, hostAfter_recv_of_invalid h.hostProgram hv, h.responses⟩
  simp [h.elapsed]

/-- After the first edge of a call the host waits for LATENCY - 1 more edges. -/
theorem run_call_awaiting {s : State} {w : CmdWord} {rest : List HostStmt} (hi : Inv s)
    (hp : phase s = some .idle) (hprog : s.hostProgram = .send w :: .recv :: rest) {k : Nat}
    (hk : k < Config.latency) :
    ∃ t, Host.Core.run core (k + 1) s = .next t ∧ Awaiting k (execWord bptRom w) rest s.responses t := by
  induction k with
  | zero =>
    rw [run_one]
    exact step_call_awaiting hi hp hprog
  | succ k ih =>
    obtain ⟨t, hrun, ht⟩ := ih (by omega)
    rw [run_snoc _ hrun]
    exact step_awaiting ht hk

/-- The LATENCY-th edge presents the response to the waiting host (R38, R95). -/
theorem step_awaiting_presents {k : Nat} {v : RspWord} {rest : List HostStmt} {rs : List RspWord} {t : State}
    (h : Awaiting k v rest rs t) (hk : Config.latency ≤ k + 1) (hf : responseFault v = none) :
    ∃ u, step t = .next u ∧ phase u = some .presenting ∧ u.rsp = v ∧ u.hostProgram = .recv :: rest
      ∧ u.responses = rs := by
  obtain ⟨hb, hv⟩ := (computing_iff t).mp h.computing
  exact ⟨_, step_of_computing_due (rst_of_recv h.hostProgram) h.computing (h.elapsed ▸ hk) (h.inflight ▸ hf),
    (phase_presenting_iff _).mpr ⟨hb, rfl⟩, h.inflight, hostAfter_recv_of_invalid h.hostProgram hv, h.responses⟩

/-- A RECV in PRESENTING takes the response and leaves the block IDLE (R39, R95). -/
theorem step_recv_retires {t : State} {rest : List HostStmt} (hp : phase t = some .presenting)
    (hprog : t.hostProgram = .recv :: rest) (hf : responseFault t.rsp = none) :
    ∃ u, step t = .next u ∧ phase u = some .idle ∧ u.hostProgram = rest
      ∧ u.responses = t.responses ++ [t.rsp] ∧ u.rsp = t.rsp := by
  obtain ⟨hb, hv⟩ := (phase_presenting_iff t).mp hp
  have hre : retireEnabled (inputPins t) t = true := by
    rw [inputPins_cons hprog]
    exact (retireEnabled_iff _ _).mpr ⟨rfl, hv, rfl⟩
  exact ⟨_, step_of_retire hb hre hf, rfl, hostAfter_recv_of_valid hprog hv, rfl, rfl⟩

/-- Settles O42: the host waits through LATENCY edges, then PRESENT and RETIRE follow. -/
theorem callReturnsItsResponse : Obligations.CallReturnsItsResponse := by
  intro s w rest hi hp hprog
  have hlast : Config.latencyPred < Config.latency := Nat.lt_succ_self _
  obtain ⟨t, hrun, ht⟩ := run_call_awaiting hi hp hprog hlast
  have hf := responseFault_execWord bptRom w
  obtain ⟨u, hpresent, hup, hursp, huprog, huresp⟩ := step_awaiting_presents ht le_rfl hf
  obtain ⟨e, hretire, hep, heprog, heresp, hersp⟩ := step_recv_retires hup huprog (hursp ▸ hf)
  have hrun' : Host.Core.run core Config.latency s = .next t := hrun
  exact ⟨e, (run_snoc _ ((run_snoc _ hrun').trans hpresent)).trans hretire, hep, heprog,
    by rw [heresp, huresp, hursp], hersp.trans hursp⟩

/-- Settles O43, by induction on the words: each call is one of O42 and ends in a state from which the next can start. -/
theorem responsesInCommandOrder : Obligations.ResponsesInCommandOrder := by
  intro words
  induction words with
  | nil =>
    intro s hi hp hprog
    exact ⟨s, by rw [List.length_nil, Nat.zero_mul]; rfl, ⟨hprog, hp⟩, by simp⟩
  | cons w words ih =>
    intro s hi hp hprog
    obtain ⟨m, hrun, hmp, hmprog, hmresp, -⟩ := callReturnsItsResponse s w (callAll words) hi hp hprog
    obtain ⟨t, hrun', hended, hresp⟩ := ih m (run_keeps_inv hi hrun) hmp hmprog
    refine ⟨t, ?_, hended, by simp [hresp, hmresp]⟩
    rw [List.length_cons, Nat.succ_mul, Nat.add_comm, run_add _ _ hrun, hrun']

/-! ### DECODE: the checksum and the derived properties -/

/-- Settles O19: the per-step sum is the sum of the bytes in 8 bits. -/
theorem checksumIsSumModulo256 : Obligations.ChecksumIsSumModulo256 := by
  intro fb
  simp [checksum_eq, BitVec.toNat_add]

/-- Changing one of the bytes 2 to 7 changes the checksum by the difference of the byte (R111). -/
theorem checksum_set {k : Nat} (fb : Frame) (b : Byte) (hk : k < 10) (hlo : 2 ≤ k) (hhi : k ≤ 7) :
    checksum (fb.set k b) = checksum fb + (b - fb[k]) := by
  interval_cases k <;> simp [checksum_eq] <;> ring

/-- Changing byte 8 leaves the checksum of the bytes 2 to 7 (R111). -/
theorem checksum_set_eight (fb : Frame) (b : Byte) : checksum (fb.set 8 b) = checksum fb := by
  simp [checksum_eq]

/-- Changing one of the bytes 2 to 8 of a frame whose checksum holds breaks it (R111). -/
theorem checksumOk_set_ne {fb : Frame} {k : Nat} {b : Byte} (hk : k < 10) (h : checksumOk fb = true)
    (hlo : 2 ≤ k) (hhi : k ≤ 8) (hb : b ≠ fb[k]) : checksumOk (fb.set k b) = false := by
  have hcs : checksum fb = fb[8] := by simpa [checksumOk] using h
  rw [checksumOk, beq_eq_false_iff_ne]
  by_cases h8 : k = 8
  · subst h8
    rw [checksum_set_eight, hcs, Vector.getElem_set_self]
    exact hb.symm
  · rw [checksum_set fb b hk hlo (by omega), hcs, Vector.getElem_set_ne _ _ h8]
    exact fun h => hb (sub_eq_zero.mp (add_eq_left.mp h))

/-- The flags that the checks of a frame give its DECODE response (R119, R202). -/
theorem decode_flags_of_checks {fb : Frame} {h c t : Bool} (hh : headerOk fb = h) (hc : checksumOk fb = c)
    (ht : trailerOk fb = t) :
    rspStatus (packResponse (decodeOp fb)) = (frameStatus h c t).code
      ∧ rspFailMask (packResponse (decodeOp fb)) = failMask h c t := by
  subst hh hc ht
  simp

/-- Settles O17: the changed byte fails the one check that looks at it, and the other two still hold. -/
theorem singleByteMutationRejected : Obligations.SingleByteMutationRejected := by
  intro fb k hk b s hbusy hhdr hcs htr hb h1
  have hH : headerOk fb = true := by simp [headerOk_eq, hhdr]
  have hC : checksumOk fb = true := by simp [checksumOk_eq, hcs]
  have hT : trailerOk fb = true := by simp [trailerOk_eq, htr]
  refine ⟨_, exec_of_idle (.decode (fb.set k b)) hbusy, ?_⟩
  by_cases h0 : k = 0
  · subst h0
    have hbad : headerOk (fb.set 0 b) = false := by simpa [headerOk_eq, hhdr] using hb
    exact decode_flags_of_checks hbad ((checksumOk_set fb b hk (by decide)).trans hC)
      ((trailerOk_set fb b hk (by decide)).trans hT)
  by_cases h9 : k = 9
  · subst h9
    have hbad : trailerOk (fb.set 9 b) = false := by simpa [trailerOk_eq, htr] using hb
    exact decode_flags_of_checks ((headerOk_set fb b hk (by decide)).trans hH)
      ((checksumOk_set fb b hk (by decide)).trans hC) hbad
  · rw [if_neg h0, if_neg h9, if_neg h0, if_neg h9]
    exact decode_flags_of_checks ((headerOk_set fb b hk h0).trans hH)
      (checksumOk_set_ne hk hC (by omega) (by omega) hb) ((trailerOk_set fb b hk h9).trans hT)

/-- A 16-bit value is its two bytes, the low one first (R64, R98). -/
theorem loByte_add_hiByte (v : BitVec 16) : (loByte v).toNat + 256 * (hiByte v).toNat = v.toNat := by
  have hv := v.isLt
  simp only [loByte, hiByte, BitVec.extractLsb'_toNat, Nat.shiftRight_eq_div_pow]
  omega

/-- The frame DECODE.MK builds passes the three checks (R98). -/
theorem frameOk_mkFrame (p25 p10 id : BitVec 16) (c : Byte) : frameOk (mkFrame p25 p10 id c) = true :=
  (frameOk_iff _).mpr ⟨rfl, rfl, rfl⟩

/-- Settles O18: the built frame is valid, and its little-endian fields are the values whose bytes it holds. -/
theorem encodedReadingDecodesToItself : Obligations.EncodedReadingDecodesToItself := by
  intro p25 p10 id c s hb
  have hok := frameOk_mkFrame p25 p10 id c
  obtain ⟨hmask, -⟩ := flags_of_frameOk hok
  obtain ⟨hcmd, h25, h10, hid⟩ := decodeOp_reading_of_frameOk hok
  have hext (x : BitVec 16) : (x.zeroExtend 32).toNat = x.toNat := BitVec.toNat_setWidth_of_le (by decide)
  refine ⟨_, exec_of_idle _ hb, (decode_rspStatus_eq_zero_iff _).mpr hok,
    (rspFailMask_packResponse _).trans ((decodeOp_failMask _).trans hmask),
    (rspPm25_packResponse _).trans (BitVec.eq_of_toNat_eq ?_),
    (rspPm10_packResponse _).trans (BitVec.eq_of_toNat_eq ?_),
    (rspSensorId_packResponse _).trans (BitVec.eq_of_toNat_eq ?_), (rspCommander_packResponse _).trans hcmd⟩
  · exact h25.trans ((loByte_add_hiByte p25).trans (hext p25).symm)
  · exact h10.trans ((loByte_add_hiByte p10).trans (hext p10).symm)
  · exact hid.trans (loByte_add_hiByte id)

/-! ### DECODE_CONVERT -/

/-- For a valid frame DECODE_CONVERT answers the DECODE response with OP 3 and the AQI of its PM2.5 value (R180). -/
theorem decodeConvertOp_valid (bpt : List BptRow) {fb : Frame} (h : frameOk fb = true) :
    decodeConvertOp bpt fb =
      withAqi { decodeOp fb with op := 0x3 } (interp bpt (unsignedTenths (decodeOp fb).pm25)) := by
  rw [decodeConvertOp_eq, if_pos h]

/-- The PM2.5 value of a valid frame is the same number read signed or unsigned: it has 16 bits (R115, R182). -/
theorem signedTenths_decodeOp_pm25 {fb : Frame} (h : frameOk fb = true) :
    signedTenths (decodeOp fb).pm25 = unsignedTenths (decodeOp fb).pm25 := by
  obtain ⟨-, h25, -⟩ := decodeOp_reading_of_frameOk h
  have hlo := fb[2].isLt
  have hhi := fb[3].isLt
  exact BitVec.toInt_eq_toNat_of_lt (by omega)

/-- Settles O22: the fields of DECODE of a valid frame, and Interp of its PM2.5 value. -/
theorem fusedCommandConvertsValidFrame : Obligations.FusedCommandConvertsValidFrame := by
  intro fb s hb hbpt hhdr hcs htr
  have hok : frameOk fb = true := (frameOk_iff fb).mpr ⟨hhdr, hcs, htr⟩
  obtain ⟨hmask, hstatus⟩ := flags_of_frameOk hok
  obtain ⟨hcmd, h25, h10, hid⟩ := decodeOp_reading_of_frameOk hok
  have hresp : commandResponse s.bpt (.decodeConvert fb) = withAqi { decodeOp fb with op := 0x3 }
      (interp bptRom (fb[2].toNat + 256 * fb[3].toNat : Int)) := by
    rw [commandResponse, decodeConvertOp_valid s.bpt hok, hbpt, unsignedTenths, h25]
    push_cast
    rfl
  refine ⟨_, exec_of_idle (.decodeConvert fb) hb, rfl, ?_⟩
  rw [hresp]
  simp [hmask, hstatus, hcmd, h25, h10, hid, Status.code, holdsInterp_withAqi]

/-- Settles O24: both AQIs are Interp of the decoded PM2.5 value, which DECODE_CONVERT reads unsigned and CONVERT
signed. -/
theorem fusedCommandIsDecodeThenConvert : Obligations.FusedCommandIsDecodeThenConvert := by
  intro fb s d hb _ hd hstatus
  rw [exec_of_idle (.decode fb) hb] at hd
  obtain rfl := Host.Outcome.next.inj hd
  have hok : frameOk fb = true := (decode_rspStatus_eq_zero_iff fb).mp hstatus
  refine ⟨_, _, exec_of_idle (.decodeConvert fb) hb, exec_of_idle _ hb, ?_⟩
  simp [commandResponse, decodeConvertOp_valid s.bpt hok, convertOp, signedTenths_decodeOp_pm25 hok]

/-! ### The flags and the AQI of every response -/

/-- The flags of every response: those of three check outcomes, or ILLEGAL_CMD with no check failed (R201, R203). -/
theorem execWord_flags_cases (bpt : List BptRow) (w : CmdWord) :
    (∃ h c t, rspStatus (execWord bpt w) = (frameStatus h c t).code
        ∧ rspFailMask (execWord bpt w) = failMask h c t)
      ∨ (rspStatus (execWord bpt w) = 0xF#4 ∧ rspFailMask (execWord bpt w) = 0) := by
  cases hd : decode w with
  | error e =>
    rw [execWord_error bpt hd]
    exact .inr ⟨rspStatus_packResponse _, rspFailMask_packResponse _⟩
  | ok i =>
    rw [execWord_ok bpt hd, rspStatus_packResponse, rspFailMask_packResponse]
    refine .inl ?_
    cases i with
    | decode fb => exact ⟨_, _, _, congrArg Status.code (decodeOp_status fb), decodeOp_failMask fb⟩
    | convert pm25 pm10 => exact ⟨true, true, true, rfl, rfl⟩
    | decodeConvert fb =>
      exact ⟨_, _, _, congrArg Status.code (decodeConvertOp_status bpt fb), decodeConvertOp_failMask bpt fb⟩

/-- Settles O27: STATUS and FAIL_MASK of every combination of check outcomes, and of an illegal word. -/
theorem statusIsLowestFailedCheck : Obligations.StatusIsLowestFailedCheck := by
  intro w
  rcases execWord_flags_cases bptRom w with ⟨h, c, t, hs, hm⟩ | hill
  · simp only [hs, hm]
    cases h
    · exact .inr (.inr (.inl ⟨rfl, failMask_getElem_zero ..⟩))
    cases c
    · exact .inr (.inr (.inr (.inl ⟨rfl, failMask_getElem_zero .., failMask_getElem_one ..⟩)))
    cases t
    · exact .inr (.inr (.inr (.inr ⟨rfl, rfl⟩)))
    · exact .inl ⟨rfl, rfl⟩
  · exact .inr (.inl hill)

/-- A response without an AQI holds 0 in the four AQI fields (R30). -/
theorem holdsAqi_zero {r : Response} (hint : r.aqiInt = 0) (hrem : r.aqiRem = 0) (hden : r.aqiDen = 0)
    (hcat : r.category = .offCharts) : HoldsAqi (packResponse r) 0 0 0 0 := by
  simp [HoldsAqi, hint, hrem, hden, hcat, Category.code]

/-- A DECODE response holds no AQI, whatever its OP (R123, R181). -/
theorem holdsAqi_decodeOp (fb : Frame) (op : BitVec 4) :
    HoldsAqi (packResponse { decodeOp fb with op := op }) 0 0 0 0 :=
  holdsAqi_zero (decodeOp_aqiInt fb) (decodeOp_aqiRem fb) (decodeOp_aqiDen fb) (decodeOp_category fb)

/-- The AQI fields of every response: none computed, or those of Interp of some value (R149, R180). -/
theorem execWord_aqi_cases (bpt : List BptRow) (w : CmdWord) :
    HoldsAqi (execWord bpt w) 0 0 0 0
      ∨ ∃ r p, execWord bpt w = packResponse (withAqi r (interp bpt p)) := by
  cases hd : decode w with
  | error e =>
    rw [execWord_error bpt hd]
    exact .inl (holdsAqi_zero rfl rfl rfl rfl)
  | ok i =>
    rw [execWord_ok bpt hd]
    cases i with
    | decode fb => exact .inl (holdsAqi_decodeOp fb (decodeOp fb).op)
    | convert pm25 pm10 => exact .inr ⟨_, _, rfl⟩
    | decodeConvert fb =>
      cases hok : frameOk fb
      · rw [commandResponse, decodeConvertOp_invalid bpt hok]
        exact .inl (holdsAqi_decodeOp fb 0x3)
      · rw [commandResponse, decodeConvertOp_valid bpt hok]
        exact .inr ⟨_, _, rfl⟩

/-- There are seven categories (R140). -/
theorem categoryCode_le (c : Category) : c.code.toNat ≤ 6 := by
  cases c <;> decide

/-- Settles O28: a response holds either no AQI or one in the range of Interp over BPT. -/
theorem aqiFieldsInRange : Obligations.AqiFieldsInRange := by
  intro w
  rcases execWord_aqi_cases bptRom w with ⟨hint, hrem, hden, hcat⟩ | ⟨r, p, hw⟩
  · norm_cast at hint hrem hden
    refine ⟨by omega, .inr ⟨BitVec.eq_of_toNat_eq hrem, BitVec.eq_of_toNat_eq hden⟩, by simp [hden], by omega⟩
  · have hrange := interp_bptRom_inRange p
    obtain ⟨hint, hrem, hden, hcat⟩ := holdsAqi_withAqi r hrange
    obtain ⟨-, hle, -, hlt, hmem⟩ := hrange
    have hcle := categoryCode_le (interp bptRom p).category
    rw [← hw] at hint hrem hden hcat
    rw [← hint] at hle
    rw [← hrem, ← hden] at hlt
    rw [← hden] at hmem
    refine ⟨by omega, .inl (by omega), ?_, hcat ▸ hcle⟩
    simp only [List.mem_cons, List.not_mem_nil, or_false] at hmem ⊢
    omega

/-! ### CONVERT: the AQI is strictly increasing -/

/-- AQI_DEN of a value in range is positive. -/
theorem AqiInRange.den_pos {a : AqiValue} (h : AqiInRange a) : 0 < a.den :=
  h.rem_nonneg.trans_lt h.rem_lt

/-- The numerator of AQI_INT + AQI_REM/AQI_DEN over AQI_DEN (R144). -/
def AqiValue.num (a : AqiValue) : Int := a.int * a.den + a.rem

/-- The interpolation is exact: no part of N is lost between AQI_INT and AQI_REM (R144). -/
theorem num_interpBetween (prev row : BptRow) (p : Int) :
    (interpBetween prev row p).num
      = prev.aqi * (row.ceiling - prev.ceiling) + (p - prev.ceiling) * (row.aqi - prev.aqi) := by
  have h := Int.ediv_mul_add_emod ((p - prev.ceiling) * (row.aqi - prev.aqi)) (row.ceiling - prev.ceiling)
  simp only [AqiValue.num, interpBetween]
  linear_combination h

/-- The AQI ceilings AL ascend with the rows (R140). -/
theorem bptRom_aqi_ascending : bptRom.Pairwise (fun a b => a.aqi < b.aqi) := by decide

/-- A value of the table's range lies in a bracket (R142). -/
theorem exists_bracket {p : Int} (hl : 0 ≤ p) (hh : p < 5004) :
    ∃ (k : Nat) (hk : k + 1 < bptRom.length), bptRom[k].ceiling ≤ p ∧ p < bptRom[k + 1].ceiling := by
  by_contra! hno
  exact absurd hh (not_lt.mpr (hno 5 (by decide) (hno 4 (by decide) (hno 3 (by decide) (hno 2 (by decide)
    (hno 1 (by decide) (hno 0 (by decide) hl)))))))

/-- In a bracket the exact value is at least the lower AQI ceiling and below the upper one, both as multiples of D. -/
theorem num_interpBetween_bounds {prev row : BptRow} {p : Int} (haqi : prev.aqi < row.aqi)
    (hl : prev.ceiling ≤ p) (hh : p < row.ceiling) :
    prev.aqi * (interpBetween prev row p).den ≤ (interpBetween prev row p).num
      ∧ (interpBetween prev row p).num < row.aqi * (interpBetween prev row p).den := by
  have hslope : 0 < row.aqi - prev.aqi := sub_pos.mpr haqi
  have hupper : row.aqi * (row.ceiling - prev.ceiling)
      = prev.aqi * (row.ceiling - prev.ceiling) + (row.ceiling - prev.ceiling) * (row.aqi - prev.aqi) := by ring
  rw [num_interpBetween, interpBetween, hupper]
  exact ⟨le_add_of_nonneg_right (mul_nonneg (sub_nonneg.mpr hl) hslope.le),
    add_lt_add_right (mul_lt_mul_of_pos_right (sub_lt_sub_right hh _) hslope) _⟩

/-- Two exact values with an integer between them are in order, compared by cross-multiplication. -/
theorem num_lt_of_between {a b : AqiValue} {m n : Int} (hda : 0 < a.den) (hdb : 0 < b.den)
    (ha : a.num < m * a.den) (hmn : m ≤ n) (hb : n * b.den ≤ b.num) : a.num * b.den < b.num * a.den :=
  calc a.num * b.den < m * a.den * b.den := mul_lt_mul_of_pos_right ha hdb
    _ ≤ n * a.den * b.den := by gcongr
    _ = n * b.den * a.den := mul_right_comm ..
    _ ≤ b.num * a.den := by gcongr

/-- What ascends over the rows of BPT is at an upper row of one bracket at most what it is at the lower row of a later
one. -/
theorem upper_le_lower_of_ascending {f : BptRow → Int} (h : bptRom.Pairwise (fun a b => f a < f b)) {j k : Nat}
    (hjk : j < k) (hk : k < bptRom.length) : f (bptRom[j + 1]'(by omega)) ≤ f bptRom[k] := by
  rcases Nat.lt_or_eq_of_le (Nat.succ_le_of_lt hjk) with hlt | rfl
  · exact (List.pairwise_iff_getElem.mp h (j + 1) k _ _ hlt).le
  · exact le_rfl

/-- The exact value of the AQI is strictly increasing over the range of the table: within a bracket by its slope, and
from one bracket to a later one because an AQI ceiling lies between the two values. -/
theorem interp_bptRom_num_lt {p q : Int} (h0 : 0 ≤ p) (hpq : p < q) (hq : q < 5004) :
    (interp bptRom p).num * (interp bptRom q).den < (interp bptRom q).num * (interp bptRom p).den := by
  obtain ⟨j, hj, hjl, hjh⟩ := exists_bracket h0 (hpq.trans hq)
  obtain ⟨k, hk, hkl, hkh⟩ := exists_bracket (h0.trans hpq.le) hq
  have hdp : 0 < (interp bptRom p).den := (interp_bptRom_inRange p).den_pos
  have hdq : 0 < (interp bptRom q).den := (interp_bptRom_inRange q).den_pos
  have haqi (i : Nat) (hi : i + 1 < bptRom.length) : bptRom[i].aqi < bptRom[i + 1].aqi :=
    List.pairwise_iff_getElem.mp bptRom_aqi_ascending i (i + 1) _ _ i.lt_succ_self
  rw [interp_bptRom_of_bracket hj hjl hjh] at hdp ⊢
  rw [interp_bptRom_of_bracket hk hkl hkh] at hdq ⊢
  rcases lt_trichotomy j k with hlt | rfl | hgt
  · obtain ⟨-, hp⟩ := num_interpBetween_bounds (haqi j hj) hjl hjh
    obtain ⟨hq, -⟩ := num_interpBetween_bounds (haqi k hk) hkl hkh
    have hle : bptRom[j + 1].aqi ≤ bptRom[k].aqi :=
      upper_le_lower_of_ascending bptRom_aqi_ascending hlt (by omega)
    exact num_lt_of_between hdp hdq hp hle hq
  · refine mul_lt_mul_of_pos_right ?_ hdp
    rw [num_interpBetween, num_interpBetween]
    exact add_lt_add_right (mul_lt_mul_of_pos_right (sub_lt_sub_right hpq _) (sub_pos.mpr (haqi j hj))) _
  · have hle : bptRom[k + 1].ceiling ≤ bptRom[j].ceiling :=
      upper_le_lower_of_ascending bptRom_ascending hgt (by omega)
    omega

/-- AQI_INT is the whole part of the exact value, so it follows the order of the exact values. -/
theorem int_le_of_num_lt {a b : AqiValue} (ha : AqiInRange a) (hb : AqiInRange b)
    (h : a.num * b.den < b.num * a.den) : a.int ≤ b.int := by
  have hlow : a.int * a.den ≤ a.num := le_add_of_nonneg_right ha.rem_nonneg
  have hhigh : b.num < (b.int + 1) * b.den := by
    rw [AqiValue.num, add_one_mul]
    exact add_lt_add_right hb.rem_lt _
  have hda := ha.den_pos
  have hdb := hb.den_pos
  have hlt : a.int * (a.den * b.den) < (b.int + 1) * (a.den * b.den) := calc
    a.int * (a.den * b.den) = a.int * a.den * b.den := (mul_assoc ..).symm
    _ ≤ a.num * b.den := by gcongr
    _ < b.num * a.den := h
    _ < (b.int + 1) * b.den * a.den := by gcongr
    _ = (b.int + 1) * (a.den * b.den) := by ring
  exact Int.lt_add_one_iff.mp (lt_of_mul_lt_mul_right hlt (mul_pos hda hdb).le)

/-- The AQI fields of a CONVERT response hold Interp of the signed operand whole (R145, R149). -/
theorem holdsAqi_convertOp (pm25 pm10 : BitVec 32) :
    HoldsAqi (packResponse (convertOp bptRom pm25 pm10)) (interp bptRom pm25.toInt).int
      (interp bptRom pm25.toInt).rem (interp bptRom pm25.toInt).den
      (interp bptRom pm25.toInt).category.code.toNat :=
  holdsAqi_withAqi _ (interp_bptRom_inRange _)

/-- Settles O21: the response fields hold Interp whole, and Interp is strictly increasing there. -/
theorem aqiStrictlyIncreasing : Obligations.AqiStrictlyIncreasing := by
  intro p q pm10 pm10' s hb hbpt h0 hpq hq
  have hp := interp_bptRom_inRange p.toInt
  have hq' := interp_bptRom_inRange q.toInt
  have hnum := interp_bptRom_num_lt h0 hpq hq
  have hint := int_le_of_num_lt hp hq' hnum
  refine ⟨_, _, exec_of_idle (.convert p pm10) hb, exec_of_idle (.convert q pm10') hb, ?_⟩
  rw [hbpt]
  obtain ⟨hi, hr, hd, -⟩ := holdsAqi_convertOp p pm10
  obtain ⟨hi', hr', hd', -⟩ := holdsAqi_convertOp q pm10'
  simp only [commandResponse]
  zify
  rw [hi, hr, hd, hi', hr', hd']
  exact ⟨hnum, hint⟩

end Sys2Proof.Machine
